-- ==== Sys2Proof/Word.lean ====
section
/-! DEFINITION. The bit vectors of T64-FWALU's ports and fields (10_state R24, R25; 30_encoding R51).
Bit 0 is the least significant bit of every port and field (00_scope R10). -/

namespace Sys2Proof

/-- A data port `A`, `B`, `R` or `REM`: `PORT_W = 32` bits (00_scope R8, 92 D2). -/
abbrev Word := BitVec 32

/-- The command port `CMD`: `CMD_W = 16` bits (00_scope R8, 92 D3). -/
abbrev CmdWord := BitVec 16

/-- The field `WIDTH = CMD[10:5]`: six bits that hold the bit width as a plain number (30_encoding R51, R53). -/
abbrev WidthField := BitVec 6

/-- The field `OP = CMD[3:0]` (30_encoding R51, R54). -/
abbrev OpField := BitVec 4

end Sys2Proof
end

