-- ==== Sys2Proof/Syntax.lean ====
section
/-! DEFINITION. The instructions of T64-FWALU: one constructor for each of the fifteen rows of opcode_table.json.
The operands stand on the ports A and B, not in the command (30_encoding R56). -/

namespace Sys2Proof

/-- The field `S = CMD[4]` (30_encoding R52): 0 unsigned, 1 signed two's-complement. -/
inductive Signedness where
  | unsigned
  | signed
deriving DecidableEq, Repr

/-- One instruction (a command's `CMD` word, 00_scope R15). `width` is the six-bit field `WIDTH` as it stands: a row
of the table fixes OP, S and RSV and leaves WIDTH free, and an illegal width is an `InvalidArgument` of the instruction
(30_encoding R53, R55; log 8). For the bitwise and shift rows `sg` is the field S, which selects the presentation of
the result only (R52). -/
inductive Instr where
  | addU (width : WidthField)
  | addS (width : WidthField)
  | subU (width : WidthField)
  | subS (width : WidthField)
  | mulU (width : WidthField)
  | mulS (width : WidthField)
  | divU (width : WidthField)
  | divS (width : WidthField)
  | and (sg : Signedness) (width : WidthField)
  | or (sg : Signedness) (width : WidthField)
  | xor (sg : Signedness) (width : WidthField)
  | not (sg : Signedness) (width : WidthField)
  | shl (sg : Signedness) (width : WidthField)
  | shr (sg : Signedness) (width : WidthField)
  | sar (sg : Signedness) (width : WidthField)
deriving DecidableEq, Repr

/-- The field WIDTH of an instruction (30_encoding R51). -/
def Instr.width : Instr → WidthField
  | .addU w => w
  | .addS w => w
  | .subU w => w
  | .subS w => w
  | .mulU w => w
  | .mulS w => w
  | .divU w => w
  | .divS w => w
  | .and _ w => w
  | .or _ w => w
  | .xor _ w => w
  | .not _ w => w
  | .shl _ w => w
  | .shr _ w => w
  | .sar _ w => w

/-- The field S of an instruction (30_encoding R51, R52). -/
def Instr.signedness : Instr → Signedness
  | .addU _ => .unsigned
  | .addS _ => .signed
  | .subU _ => .unsigned
  | .subS _ => .signed
  | .mulU _ => .unsigned
  | .mulS _ => .signed
  | .divU _ => .unsigned
  | .divS _ => .signed
  | .and sg _ => sg
  | .or sg _ => sg
  | .xor sg _ => sg
  | .not sg _ => sg
  | .shl sg _ => sg
  | .shr sg _ => sg
  | .sar sg _ => sg

/-- Whether the port B carries a shift amount (30_encoding R54, column "B is"). -/
def Instr.isShift : Instr → Bool
  | .addU _ => false
  | .addS _ => false
  | .subU _ => false
  | .subS _ => false
  | .mulU _ => false
  | .mulS _ => false
  | .divU _ => false
  | .divS _ => false
  | .and _ _ => false
  | .or _ _ => false
  | .xor _ _ => false
  | .not _ _ => false
  | .shl _ _ => true
  | .shr _ _ => true
  | .sar _ _ => true

/-- Whether the instruction is one of the divider's two, the only ones that drive REM and DBZ (10_state R25, R28). -/
def Instr.isDiv : Instr → Bool
  | .addU _ => false
  | .addS _ => false
  | .subU _ => false
  | .subS _ => false
  | .mulU _ => false
  | .mulS _ => false
  | .divU _ => true
  | .divS _ => true
  | .and _ _ => false
  | .or _ _ => false
  | .xor _ _ => false
  | .not _ _ => false
  | .shl _ _ => false
  | .shr _ _ => false
  | .sar _ _ => false

end Sys2Proof
end

