-- ==== Sys2Proof/Decode.lean ====
section
/-! DEFINITION. Decoding and encoding of the one command format CMD16 (30_encoding R50, R51, R54). There are no bytes
and no fetch (20_memory R41, R48): the decoder reads the sixteen bits of the CMD port. -/

namespace Sys2Proof

/-- Why a command word is no instruction (30_encoding R58, 60_exceptions R131). -/
inductive Rejection where
  /-- `RSV = CMD[15:11]` is not 0. -/
  | reservedBits
  /-- `OP = CMD[3:0]` is one of `0xB` to `0xF`. -/
  | reservedOpcode
deriving DecidableEq, Repr

/-- `OP = CMD[3:0]` (R51). -/
def opField (cmd : CmdWord) : OpField := cmd.extractLsb' 0 4

/-- `S = CMD[4]` (R51, R52). -/
def sField (cmd : CmdWord) : Signedness := if cmd.getLsbD 4 then .signed else .unsigned

/-- `WIDTH = CMD[10:5]` (R51, R53). -/
def widthField (cmd : CmdWord) : WidthField := cmd.extractLsb' 5 6

/-- `RSV = CMD[15:11]` (R51). -/
def rsvField (cmd : CmdWord) : BitVec 5 := cmd.extractLsb' 11 5

/-- The operation that OP selects, with S where the table has a row for each (R54). -/
def decodeOp (op : Nat) (sg : Signedness) (width : WidthField) : Except Rejection Instr :=
  match op, sg with
  | 0, .unsigned => .ok (.addU width)
  | 0, .signed => .ok (.addS width)
  | 1, .unsigned => .ok (.subU width)
  | 1, .signed => .ok (.subS width)
  | 2, .unsigned => .ok (.mulU width)
  | 2, .signed => .ok (.mulS width)
  | 3, .unsigned => .ok (.divU width)
  | 3, .signed => .ok (.divS width)
  | 4, sg => .ok (.and sg width)
  | 5, sg => .ok (.or sg width)
  | 6, sg => .ok (.xor sg width)
  | 7, sg => .ok (.not sg width)
  | 8, sg => .ok (.shl sg width)
  | 9, sg => .ok (.shr sg width)
  | 10, sg => .ok (.sar sg width)
  | _, _ => .error .reservedOpcode

/-- Decoding of a command word: RSV is checked before OP, the order of R55. The width is checked by the instruction
(R55: after OP), so every WIDTH decodes (log 8). -/
def decode (cmd : CmdWord) : Except Rejection Instr :=
  if rsvField cmd ≠ 0 then .error .reservedBits
  else decodeOp (opField cmd).toNat (sField cmd) (widthField cmd)

/-- The value of the field S (R51). -/
def Signedness.bit : Signedness → CmdWord
  | .unsigned => 0
  | .signed => 1

/-- `CMD = (WIDTH << 5) | (S << 4) | OP` (R51). -/
def commandWord (width : WidthField) (sg : Signedness) (op : CmdWord) : CmdWord :=
  (width.setWidth 16 <<< 5) ||| (sg.bit <<< 4) ||| op

/-- The command word of an instruction (R51, R54, R60). -/
def encode : Instr → CmdWord
  | .addU w => commandWord w .unsigned 0x0
  | .addS w => commandWord w .signed 0x0
  | .subU w => commandWord w .unsigned 0x1
  | .subS w => commandWord w .signed 0x1
  | .mulU w => commandWord w .unsigned 0x2
  | .mulS w => commandWord w .signed 0x2
  | .divU w => commandWord w .unsigned 0x3
  | .divS w => commandWord w .signed 0x3
  | .and sg w => commandWord w sg 0x4
  | .or sg w => commandWord w sg 0x5
  | .xor sg w => commandWord w sg 0x6
  | .not sg w => commandWord w sg 0x7
  | .shl sg w => commandWord w sg 0x8
  | .shr sg w => commandWord w sg 0x9
  | .sar sg w => commandWord w sg 0xA

/-- The command word a host drives for an instruction whose bits are `w`, `nbits` of them given by the table and the
rest 0. A command is one word of 16 bits (R50): more bits than that are no command (log 9). -/
def tableWord (nbits w : Nat) : Option CmdWord :=
  if nbits ≤ 16 then some (BitVec.ofNat 16 (w % 2 ^ nbits)) else none

/-- The instruction the decoder reads from an instruction whose bits are `w`, numbered as opcode_table.json does. -/
def decodeTableWord (nbits w : Nat) : Option Instr :=
  match tableWord nbits w with
  | none => none
  | some cmd =>
    match decode cmd with
    | .ok i => some i
    | .error _ => none

end Sys2Proof
end

