-- ==== Sys2Proof/Config.lean ====
section
/-! DEFINITION. What an implementation of T64-FWALU fixes: the open parameters of 00_scope R8 and 92 part 2, with
the values this hardware takes, and the free values of the outputs the spec leaves unspecified (93 U3). -/

namespace Sys2Proof

/-- The values of the parameter `DIV_ROUNDING` (92 part 2, D12; 43_divider R102). -/
inductive DivRounding where
  | floor
  | trunc
deriving DecidableEq, Repr

/-- The open parameters of the block (00_scope R8, 92 part 2). `T_PD` is a time and is not modelled (R155). -/
structure Config where
  /-- `HAS_W32`: whether width 32 is legal (00_scope R9, 92 D6). -/
  hasW32 : Bool
  /-- `DIV_ROUNDING`: the rounding of the signed quotient (43_divider R102, 92 D12). -/
  divRounding : DivRounding
  /-- `P_SHL_OVF`: whether SHL drives the overflow flag (90 C1, 92 D14). -/
  shlOvf : Bool
deriving DecidableEq, Repr

/-- T64-FWALU itself: the third column of 00_scope R8, the values every rule and vector of the spec assumes. -/
def Config.t64 : Config := { hasW32 := true, divRounding := .floor, shlOvf := false }

/-- The closed set `WIDTHS` of legal bit widths (00_scope R8): `8, 16, 32`, and `8, 16` without `HAS_W32`. -/
def Config.widths (cfg : Config) : List Nat := if cfg.hasW32 then [8, 16, 32] else [8, 16]

/-! Free values: what the outputs carry while an input bit is undriven, undefined or changing is unspecified
(70_reset R151, R154; 93 U3, treatment "any value"). Each is applied to the counter `State.freeCount`.
Log 5. Safe: nothing can be proved of them. -/

/-- Free value of the port `R`. -/
opaque Config.freeR : Nat → Word
/-- Free value of the port `REM`. -/
opaque Config.freeRem : Nat → Word
/-- Free value of the port `OVF`. -/
opaque Config.freeOvf : Nat → Bool
/-- Free value of the port `UNF`. -/
opaque Config.freeUnf : Nat → Bool
/-- Free value of the port `DBZ`. -/
opaque Config.freeDbz : Nat → Bool
/-- Free value of the port `ERR`. -/
opaque Config.freeErr : Nat → Bool

end Sys2Proof
end

