-- ==== Sys2Proof/Machine/State.lean ====
section
/-! DEFINITION. The machine's state: the block stores nothing (10_state R20 to R23, R26, R31), so State holds its ports
(R24, R25), whether the inputs are defined (70_reset R151, R154) and the model's own counter of free values. -/

namespace Sys2Proof.Machine

/-- The causes of `InvalidArgument`, in the order in which they are checked (60_exceptions R131, R136). The names are
labels: the hardware reports none (R132), and State records none. -/
inductive InvalidCause where
  /-- `RSV = CMD[15:11]` is not 0. -/
  | reservedBits
  /-- `OP = CMD[3:0]` is one of `0xB` to `0xF`. -/
  | reservedOpcode
  /-- `WIDTH = CMD[10:5]` is not in WIDTHS. -/
  | bitWidth
  /-- `B[31] = 1` in a shift. -/
  | negativeShift
deriving DecidableEq, Repr

/-- What ends an evaluation without a result. -/
inductive Fault where
  /-- `raise InvalidArgument(cause)` (60_exceptions R130, R131, R133). Raised by an EVALUATION (`eval` and the units),
  which then has no result. No step stops on it: the step drives the error outcome of R133 on the ports (log 1). Safe
  for claims about `eval`; a claim about the ports must look at ERR before it uses R or REM. -/
  | invalidArgument (cause : InvalidCause)
deriving DecidableEq, Repr

/-- Why the model gives an instruction no meaning. -/
inductive Refusal where
  /-- The instruction has no meaning in this model yet. Raised by `exec`'s arms alone, and by none of them in this
  model. Safe: nothing can be claimed of such a step. -/
  | notModelled (mnemonic : String)
deriving DecidableEq, Repr

/-- The input ports (10_state R24). -/
structure Inputs where
  /-- `CMD[15:0]`, the command word. -/
  cmd : CmdWord
  /-- `A[31:0]`, the first operand. -/
  a : Word
  /-- `B[31:0]`, the second operand or the shift amount. -/
  b : Word
deriving DecidableEq, Repr

/-- The output ports (10_state R25): one evaluation's tuple (00_scope R15). -/
structure Outputs where
  /-- `R[31:0]`, the result, the quotient for DIV. -/
  r : Word
  /-- `REM[31:0]`, the remainder for DIV. -/
  rem : Word
  /-- `OVF`, overflow. -/
  ovf : Bool
  /-- `UNF`, underflow. -/
  unf : Bool
  /-- `DBZ`, division by zero. -/
  dbz : Bool
  /-- `ERR`, the command raised `InvalidArgument`. -/
  err : Bool
deriving DecidableEq, Repr

/-- The ports, and two fields of the model's own. The outputs are those of the last evaluation; a step evaluates the
inputs that are held now (log 3). -/
structure State where
  /-- The input ports, driven by the host (R24). -/
  inp : Inputs
  /-- The output ports (R25). -/
  out : Outputs
  /-- The model's own: every input bit carries a defined, unchanging value (70_reset R151, R154; 93 U3; log 5). -/
  inputsDefined : Bool
  /-- The model's own: how many free values have been used (log 5). -/
  freeCount : Nat
deriving DecidableEq, Repr

/-- The machine before any step. The block has no reset and no state to reset (10_state R32, 70_reset R150, R151): the
input ports hold the values of log 2, and the outputs are what those inputs define (R151), the error outcome of
`CMD = 0x0000`, whose WIDTH is 0 (30_encoding R53, 60_exceptions R133; 95 2.7). -/
def State.reset : State where
  inp := { cmd := 0, a := 0, b := 0 }
  out := { r := 0, rem := 0, ovf := false, unf := false, dbz := false, err := true }
  inputsDefined := true
  freeCount := 0

end Sys2Proof.Machine
end

