-- ==== Sys2Proof/Machine/Operands.lean ====
section
/-! DEFINITION. The operand forms and the common datapath functions of 40_sign_converter.md, on unbounded integers
(00_scope R11, R12): the constants of a width, `norm`, `to_signed`, `to_pattern`, `wrap_signed`, `present`; the width
check of 30_encoding R53; the shift amount of 45_shifter R120. A pattern is a natural number (00_scope R18). -/

namespace Sys2Proof.Machine

/-- `mask(w) = max_unsigned(w) = 2^w - 1` (R70). -/
def mask (w : Nat) : Nat := 2 ^ w - 1

/-- `msb_mask(w) = 2^(w-1)` (R70). -/
def msbMask (w : Nat) : Nat := 2 ^ (w - 1)

/-- `max_unsigned(w)` (R70). -/
def maxUnsigned (w : Nat) : Int := mask w

/-- `max_signed(w) = 2^(w-1) - 1` (R70). -/
def maxSigned (w : Nat) : Int := (msbMask w : Int) - 1

/-- `min_signed(w) = -(2^(w-1))` (R70). -/
def minSigned (w : Nat) : Int := -(msbMask w : Int)

/-- `norm(v, w) = v & mask(w) = floor_mod(v, 2^w)` for any integer `v` (R71; 00_scope R12). -/
def normTo (v : Int) (w : Nat) : Nat := (Int.fmod v ((2 ^ w : Nat) : Int)).toNat

/-- A value operand: `norm` of a port's bits, read unsigned (30_encoding R56). -/
def valueOperand (port : Word) (w : Nat) : Nat := normTo (port.toNat : Int) w

/-- `to_signed(p, w)` (R72). -/
def toSigned (p w : Nat) : Int := if p &&& msbMask w ≠ 0 then (p : Int) - ((2 ^ w : Nat) : Int) else (p : Int)

/-- `to_pattern(s, w) = s & mask(w)` (R73). -/
def toPattern (s : Int) (w : Nat) : Nat := normTo s w

/-- A value operand read as two's-complement (30_encoding R56). -/
def signedOperand (port : Word) (w : Nat) : Int := toSigned (valueOperand port w) w

/-- `wrap_signed(t, w)`, the source's formula with the floored modulo (R74; 90 C2). -/
def wrapSigned (t : Int) (w : Nat) : Int :=
  Int.fmod (t + maxSigned w + 1) (2 * (maxSigned w + 1)) - (maxSigned w + 1)

/-- `present(p, S)`: the `w`-bit pattern on a 32-bit result port, zero-extended or sign-extended (R76). -/
def present (p : Nat) (sg : Signedness) (w : Nat) : Word :=
  match sg with
  | .unsigned => BitVec.ofNat 32 p
  | .signed => if p.testBit (w - 1) then BitVec.ofNat 32 (p + 2 ^ 32 - 2 ^ w) else BitVec.ofNat 32 p

/-- Whether a WIDTH is in WIDTHS (30_encoding R53; 00_scope R8, R9). -/
def widthIsLegal (cfg : Config) (width : WidthField) : Bool :=
  width.toNat == 8 || width.toNat == 16 || (width.toNat == 32 && cfg.hasW32)

/-- The bit width that WIDTH names, or `InvalidArgument(bit_width)` (30_encoding R53, R55). -/
def bitWidth (cfg : Config) (width : WidthField) : Except Fault Nat :=
  if widthIsLegal cfg width then .ok width.toNat else .error (.invalidArgument .bitWidth)

/-- The shift amount: all 32 bits of B as a two's-complement integer, `InvalidArgument(negative_shift)` if it is below
0 (45_shifter R120). -/
def shiftAmount (b : Word) : Except Fault Nat :=
  if toSigned b.toNat 32 < 0 then .error (.invalidArgument .negativeShift) else .ok (toSigned b.toNat 32).toNat

/-- `n_eff = min(n, w)`: every amount from `w` up gives what `w` gives (R120, its derived sentence; log 10). -/
def effectiveAmount (n w : Nat) : Nat := min n w

end Sys2Proof.Machine
end

