-- ==== Sys2Proof/Machine/Flags.lean ====
section
/-! DEFINITION. The flag computations (10_state R28): the range checks of the unsigned rules (41_adder R85, R86;
42_multiplier R95) and of the signed rules (40_sign_converter R77). -/

namespace Sys2Proof.Machine

/-- What a range check gives: the pattern after the wrap, and the two range flags. -/
structure RangeChecked where
  pattern : Nat
  ovf : Bool
  unf : Bool
deriving DecidableEq, Repr

/-- The unsigned range check: above the maximum, mask and set OVF (R85, R95); below 0, mask and set UNF (R86). -/
def checkUnsigned (t : Int) (w : Nat) : RangeChecked :=
  if t > maxUnsigned w then { pattern := normTo t w, ovf := true, unf := false }
  else if t < 0 then { pattern := normTo t w, ovf := false, unf := true }
  else { pattern := t.toNat, ovf := false, unf := false }

/-- The signed range check and wrap (R77). -/
def checkSigned (t : Int) (w : Nat) : RangeChecked :=
  if t > maxSigned w then { pattern := toPattern (wrapSigned t w) w, ovf := true, unf := false }
  else if t < minSigned w then { pattern := toPattern (wrapSigned t w) w, ovf := false, unf := true }
  else { pattern := toPattern t w, ovf := false, unf := false }

/-- `OVF` of SHL under `P_SHL_OVF = 1`: `a' * 2^n > mask(w)` (92 D14). -/
def shlOverflows (p n w : Nat) : Bool := decide (p * 2 ^ effectiveAmount n w > mask w)

end Sys2Proof.Machine
end

