-- ==== Sys2Proof/Machine/Ops.lean ====
section
/-! DEFINITION. The shared operations: an evaluation and its result, the error outcome (taking the one exception,
60_exceptions R133, R138), driving the outputs, and what a step does on inputs that are no instruction. There is no
return from an exception (R139): nothing is saved and nothing is restored. -/

namespace Sys2Proof.Machine

/-- The result of a command that raises nothing: what goes on the ports beside `ERR = 0` (10_state R25). -/
structure Result where
  r : Word
  rem : Word
  ovf : Bool
  unf : Bool
  dbz : Bool
deriving DecidableEq, Repr

/-- The outcome of one evaluation: a result, or `InvalidArgument` as a third outcome beside it (60_exceptions R133). -/
abbrev Evaluation := Except Fault Result

/-- `raise InvalidArgument(cause)` (00_scope R13). -/
def raiseInvalidArgument (cause : InvalidCause) : Evaluation := .error (.invalidArgument cause)

/-- The output tuple of a command that raised `InvalidArgument` (60_exceptions R133). -/
def errorOutputs : Outputs := { r := 0, rem := 0, ovf := false, unf := false, dbz := false, err := true }

/-- The output tuple of a result, with `ERR = 0` (30_encoding R55, part 4). -/
def resultOutputs (x : Result) : Outputs :=
  { r := x.r, rem := x.rem, ovf := x.ovf, unf := x.unf, dbz := x.dbz, err := false }

/-- The output tuple of an evaluation (00_scope R15): total, as R26 says. -/
def outputsOf : Evaluation → Outputs
  | .ok x => resultOutputs x
  | .error _ => errorOutputs

/-- Drive the output ports; the inputs are the host's and stay (70_reset R154). -/
def driveOutputs (o : Outputs) (s : State) : State := { s with out := o }

/-- Drive the output ports with an evaluation's outcome and go on: the error outcome is a next state too, since the
block never stops (70_reset R157; 60_exceptions R139; log 1). -/
def answer (e : Evaluation) (s : State) : Host.Outcome State Fault Refusal := .next (driveOutputs (outputsOf e) s)

/-- TAKING THE EXCEPTION: the whole effect of `InvalidArgument` is the output tuple of R133; no state is saved, no mode
changed, nothing masked, no control transferred (R138). -/
def takeInvalidArgument (cause : InvalidCause) (s : State) : Host.Outcome State Fault Refusal :=
  answer (raiseInvalidArgument cause) s

/-- The cause that a word the decoder rejects raises (60_exceptions R131). -/
def causeOfRejection : Rejection → InvalidCause
  | .reservedBits => .reservedBits
  | .reservedOpcode => .reservedOpcode

/-- Validate WIDTH, then go on at that width: nothing is computed before the check (30_encoding R55, R136). -/
def atWidth (cfg : Config) (width : WidthField) (unit : Nat → Evaluation) : Evaluation :=
  match bitWidth cfg width with
  | .ok w => unit w
  | .error f => .error f

/-- Validate the shift amount, then go on with it (45_shifter R120): after the checks of CMD, before any shifting. -/
def withAmount (b : Word) (unit : Nat → Evaluation) : Evaluation :=
  match shiftAmount b with
  | .ok n => unit n
  | .error f => .error f

/-- The result of an operation with range flags, `REM = 0` and `DBZ = 0` (41_adder R89, 42_multiplier R97). -/
def rangedResult (c : RangeChecked) (sg : Signedness) (w : Nat) : Evaluation :=
  .ok { r := present c.pattern sg w, rem := 0, ovf := c.ovf, unf := c.unf, dbz := false }

/-- The result of an operation that sets no flag and drives `REM = 0` (44_bitwise R116, 45_shifter R126). -/
def plainResult (p : Nat) (sg : Signedness) (w : Nat) : Evaluation :=
  .ok { r := present p sg w, rem := 0, ovf := false, unf := false, dbz := false }

/-- The instruction on the CMD port, as the decoder reads it: what the block executes now (20_memory R48). -/
def fetch (s : State) : Except Rejection Instr := decode s.inp.cmd

/-- A step whose inputs are not all defined: each output carries a free value (93 U3, "any value"; log 5). -/
def driveUnspecified (s : State) : Host.Outcome State Fault Refusal :=
  .next { s with
    out :=
      { r := Config.freeR s.freeCount, rem := Config.freeRem s.freeCount, ovf := Config.freeOvf s.freeCount,
        unf := Config.freeUnf s.freeCount, dbz := Config.freeDbz s.freeCount, err := Config.freeErr s.freeCount }
    freeCount := s.freeCount + 1 }

/-- The host presents a command: it drives all of CMD, A and B with defined values (70_reset R152). -/
def State.driveInputs (cmd : CmdWord) (a b : Word) (s : State) : State :=
  { s with inp := { cmd := cmd, a := a, b := b }, inputsDefined := true }

/-- The host lets go of an input or changes one: until it drives all of them again, the outputs are unspecified
(70_reset R151, R154). -/
def State.releaseInputs (s : State) : State := { s with inputsDefined := false }

end Sys2Proof.Machine
end

