-- ==== Sys2Proof/Machine/Adder.lean ====
section
/-! DEFINITION. The fixed-width adder: ADD.U, SUB.U, ADD.S, SUB.S (41_adder.md). Each unit function is the evaluation
under any configuration; each `exec…` is the instruction's meaning on this hardware. -/

namespace Sys2Proof.Machine

/-- ADD.U: `a' + b'`, OVF above the maximum (R85). -/
def evalAddU (cfg : Config) (width : WidthField) (a b : Word) : Evaluation :=
  atWidth cfg width fun w =>
    rangedResult (checkUnsigned ((valueOperand a w : Int) + (valueOperand b w : Int)) w) .unsigned w

/-- SUB.U: `a' - b'`, UNF below 0 (R86). -/
def evalSubU (cfg : Config) (width : WidthField) (a b : Word) : Evaluation :=
  atWidth cfg width fun w =>
    rangedResult (checkUnsigned ((valueOperand a w : Int) - (valueOperand b w : Int)) w) .unsigned w

/-- ADD.S: `as + bs`, wrapped, OVF on the high side and UNF on the low side (R87). -/
def evalAddS (cfg : Config) (width : WidthField) (a b : Word) : Evaluation :=
  atWidth cfg width fun w => rangedResult (checkSigned (signedOperand a w + signedOperand b w) w) .signed w

/-- SUB.S: `as - bs`, wrapped, OVF on the high side and UNF on the low side (R88). -/
def evalSubS (cfg : Config) (width : WidthField) (a b : Word) : Evaluation :=
  atWidth cfg width fun w => rangedResult (checkSigned (signedOperand a w - signedOperand b w) w) .signed w

/-- The meaning of ADD.U (R85). -/
def execAddU (width : WidthField) (s : State) : Host.Outcome State Fault Refusal :=
  answer (evalAddU Config.t64 width s.inp.a s.inp.b) s

/-- The meaning of ADD.S (R87). -/
def execAddS (width : WidthField) (s : State) : Host.Outcome State Fault Refusal :=
  answer (evalAddS Config.t64 width s.inp.a s.inp.b) s

/-- The meaning of SUB.U (R86). -/
def execSubU (width : WidthField) (s : State) : Host.Outcome State Fault Refusal :=
  answer (evalSubU Config.t64 width s.inp.a s.inp.b) s

/-- The meaning of SUB.S (R88). -/
def execSubS (width : WidthField) (s : State) : Host.Outcome State Fault Refusal :=
  answer (evalSubS Config.t64 width s.inp.a s.inp.b) s

end Sys2Proof.Machine
end

