-- ==== Sys2Proof/Machine/Bitwise.lean ====
section
/-! DEFINITION. The bitwise ALU: AND, OR, XOR, NOT (44_bitwise.md). The pattern does not depend on S, which selects its
presentation on R alone (30_encoding R52). -/

namespace Sys2Proof.Machine

/-- AND: `(a' & b') & mask(w)` (R110). -/
def evalAnd (cfg : Config) (sg : Signedness) (width : WidthField) (a b : Word) : Evaluation :=
  atWidth cfg width fun w => plainResult ((valueOperand a w &&& valueOperand b w) &&& mask w) sg w

/-- OR: `(a' | b') & mask(w)` (R111). -/
def evalOr (cfg : Config) (sg : Signedness) (width : WidthField) (a b : Word) : Evaluation :=
  atWidth cfg width fun w => plainResult ((valueOperand a w ||| valueOperand b w) &&& mask w) sg w

/-- XOR: `(a' ^ b') & mask(w)` (R112). -/
def evalXor (cfg : Config) (sg : Signedness) (width : WidthField) (a b : Word) : Evaluation :=
  atWidth cfg width fun w => plainResult ((valueOperand a w ^^^ valueOperand b w) &&& mask w) sg w

/-- NOT: `(~a') & mask(w)` with `~x = -x - 1`, the complement of the masked input; B is ignored (R113; 00_scope R12). -/
def evalNot (cfg : Config) (sg : Signedness) (width : WidthField) (a : Word) : Evaluation :=
  atWidth cfg width fun w => plainResult (normTo (-(valueOperand a w : Int) - 1) w) sg w

/-- The meaning of AND (R110). -/
def execAnd (sg : Signedness) (width : WidthField) (s : State) : Host.Outcome State Fault Refusal :=
  answer (evalAnd Config.t64 sg width s.inp.a s.inp.b) s

/-- The meaning of OR (R111). -/
def execOr (sg : Signedness) (width : WidthField) (s : State) : Host.Outcome State Fault Refusal :=
  answer (evalOr Config.t64 sg width s.inp.a s.inp.b) s

/-- The meaning of XOR (R112). -/
def execXor (sg : Signedness) (width : WidthField) (s : State) : Host.Outcome State Fault Refusal :=
  answer (evalXor Config.t64 sg width s.inp.a s.inp.b) s

/-- The meaning of NOT (R113). -/
def execNot (sg : Signedness) (width : WidthField) (s : State) : Host.Outcome State Fault Refusal :=
  answer (evalNot Config.t64 sg width s.inp.a) s

end Sys2Proof.Machine
end

