-- ==== Sys2Proof/Machine/Divider.lean ====
section
/-! DEFINITION. The integer divider with division-by-zero flag: DIV.U, DIV.S (43_divider.md). It is the one unit that
drives REM and DBZ. -/

namespace Sys2Proof.Machine

/-- The outcome of a zero divisor, whatever the dividend and S: a defined result of 0 and 0 with `DBZ = 1` (R104). -/
def divideByZero : Evaluation := .ok { r := 0, rem := 0, ovf := false, unf := false, dbz := true }

/-- The quotient under DIV_ROUNDING: `floor_div`, or `trunc_div` (00_scope R11; 43_divider R102; log 7). -/
def quotient (rounding : DivRounding) (x y : Int) : Int :=
  match rounding with
  | .floor => Int.fdiv x y
  | .trunc => Int.tdiv x y

/-- The remainder under DIV_ROUNDING: `floor_mod`, or `trunc_rem` (00_scope R11; 43_divider R102; log 7). -/
def remainder (rounding : DivRounding) (x y : Int) : Int :=
  match rounding with
  | .floor => Int.fmod x y
  | .trunc => Int.tmod x y

/-- DIV.U: the zero test on the masked divisor, then `floor_div` and `floor_mod`; the defensive check `q < 0` of the
source is kept, and never fires (R100). -/
def evalDivU (cfg : Config) (width : WidthField) (a b : Word) : Evaluation :=
  atWidth cfg width fun w =>
    if valueOperand b w = 0 then divideByZero
    else
      .ok
        { r := present (normTo (Int.fdiv (valueOperand a w) (valueOperand b w)) w) .unsigned w
          rem := present (normTo (Int.fmod (valueOperand a w) (valueOperand b w)) w) .unsigned w
          ovf := false
          unf := decide (Int.fdiv (valueOperand a w) (valueOperand b w) < 0)
          dbz := false }

/-- DIV.S: the zero test, then the quotient and remainder of the signed values; the flag is the range check of the
quotient, not a sign check (R101, R103). -/
def evalDivS (cfg : Config) (width : WidthField) (a b : Word) : Evaluation :=
  atWidth cfg width fun w =>
    if signedOperand b w = 0 then divideByZero
    else
      let q := checkSigned (quotient cfg.divRounding (signedOperand a w) (signedOperand b w)) w
      let r := toPattern (remainder cfg.divRounding (signedOperand a w) (signedOperand b w)) w
      .ok { r := present q.pattern .signed w, rem := present r .signed w, ovf := q.ovf, unf := q.unf, dbz := false }

/-- The meaning of DIV.U (R100). -/
def execDivU (width : WidthField) (s : State) : Host.Outcome State Fault Refusal :=
  answer (evalDivU Config.t64 width s.inp.a s.inp.b) s

/-- The meaning of DIV.S (R101). -/
def execDivS (width : WidthField) (s : State) : Host.Outcome State Fault Refusal :=
  answer (evalDivS Config.t64 width s.inp.a s.inp.b) s

end Sys2Proof.Machine
end

