-- ==== Sys2Proof/Machine/Multiplier.lean ====
section
/-! DEFINITION. The multiplier with overflow detection: MUL.U, MUL.S (42_multiplier.md). The product is exact, on
unbounded integers; only its low `w` bits are returned (R95, R97). -/

namespace Sys2Proof.Machine

/-- MUL.U: `a' * b'`, OVF above the maximum (R95). -/
def evalMulU (cfg : Config) (width : WidthField) (a b : Word) : Evaluation :=
  atWidth cfg width fun w =>
    rangedResult (checkUnsigned ((valueOperand a w : Int) * (valueOperand b w : Int)) w) .unsigned w

/-- MUL.S: `as * bs`, wrapped, OVF on the high side and UNF on the low side (R96). -/
def evalMulS (cfg : Config) (width : WidthField) (a b : Word) : Evaluation :=
  atWidth cfg width fun w => rangedResult (checkSigned (signedOperand a w * signedOperand b w) w) .signed w

/-- The meaning of MUL.U (R95). -/
def execMulU (width : WidthField) (s : State) : Host.Outcome State Fault Refusal :=
  answer (evalMulU Config.t64 width s.inp.a s.inp.b) s

/-- The meaning of MUL.S (R96). -/
def execMulS (width : WidthField) (s : State) : Host.Outcome State Fault Refusal :=
  answer (evalMulS Config.t64 width s.inp.a s.inp.b) s

end Sys2Proof.Machine
end

