-- ==== Sys2Proof/Machine/Shifter.lean ====
section
/-! DEFINITION. The barrel shifter: SHL, SHR, SAR (45_shifter.md). The opcode alone selects the kind of right shift,
and S the presentation (R124); the amount is all of B, neither masked nor reduced (R120). -/

namespace Sys2Proof.Machine

/-- SHL: `(a' << n) & mask(w)`; OVF only under `P_SHL_OVF = 1` (R121; 92 D14). -/
def evalShl (cfg : Config) (sg : Signedness) (width : WidthField) (a b : Word) : Evaluation :=
  atWidth cfg width fun w =>
    withAmount b fun n =>
      .ok
        { r := present (normTo ((valueOperand a w * 2 ^ effectiveAmount n w : Nat) : Int) w) sg w
          rem := 0
          ovf := cfg.shlOvf && shlOverflows (valueOperand a w) n w
          unf := false
          dbz := false }

/-- SHR: `(a' >> n) & mask(w)` of the unsigned pattern, zeros entering from the left (R122). -/
def evalShr (cfg : Config) (sg : Signedness) (width : WidthField) (a b : Word) : Evaluation :=
  atWidth cfg width fun w =>
    withAmount b fun n =>
      plainResult (normTo (Int.fdiv (valueOperand a w) ((2 ^ effectiveAmount n w : Nat) : Int)) w) sg w

/-- SAR: `(as >> n) & mask(w)`, reinterpreting first, copies of the sign bit entering from the left (R123). -/
def evalSar (cfg : Config) (sg : Signedness) (width : WidthField) (a b : Word) : Evaluation :=
  atWidth cfg width fun w =>
    withAmount b fun n =>
      plainResult (normTo (Int.fdiv (signedOperand a w) ((2 ^ effectiveAmount n w : Nat) : Int)) w) sg w

/-- The meaning of SHL (R121). -/
def execShl (sg : Signedness) (width : WidthField) (s : State) : Host.Outcome State Fault Refusal :=
  answer (evalShl Config.t64 sg width s.inp.a s.inp.b) s

/-- The meaning of SHR (R122). -/
def execShr (sg : Signedness) (width : WidthField) (s : State) : Host.Outcome State Fault Refusal :=
  answer (evalShr Config.t64 sg width s.inp.a s.inp.b) s

/-- The meaning of SAR (R123). -/
def execSar (sg : Signedness) (width : WidthField) (s : State) : Host.Outcome State Fault Refusal :=
  answer (evalSar Config.t64 sg width s.inp.a s.inp.b) s

end Sys2Proof.Machine
end

