-- ==== Sys2Proof/Machine/Dispatch.lean ====
section
/-! DEFINITION. The instruction's meaning, one arm for each constructor of Instr (30_encoding R54). -/

namespace Sys2Proof.Machine

def exec (i : Instr) (s : State) : Host.Outcome State Fault Refusal :=
  match i with
  | .addU width => Sys2Proof.Machine.execAddU width s
  | .addS width => Sys2Proof.Machine.execAddS width s
  | .subU width => Sys2Proof.Machine.execSubU width s
  | .subS width => Sys2Proof.Machine.execSubS width s
  | .mulU width => Sys2Proof.Machine.execMulU width s
  | .mulS width => Sys2Proof.Machine.execMulS width s
  | .divU width => Sys2Proof.Machine.execDivU width s
  | .divS width => Sys2Proof.Machine.execDivS width s
  | .and sg width => Sys2Proof.Machine.execAnd sg width s
  | .or sg width => Sys2Proof.Machine.execOr sg width s
  | .xor sg width => Sys2Proof.Machine.execXor sg width s
  | .not sg width => Sys2Proof.Machine.execNot sg width s
  | .shl sg width => Sys2Proof.Machine.execShl sg width s
  | .shr sg width => Sys2Proof.Machine.execShr sg width s
  | .sar sg width => Sys2Proof.Machine.execSar sg width s

end Sys2Proof.Machine
end

