-- ==== Sys2Proof/Machine/Step.lean ====
section
/-! DEFINITION. One step is one evaluation of the inputs that are held now (00_scope R15, 30_encoding R55). -/

namespace Sys2Proof.Machine

/-- One evaluation: with all inputs defined, the instruction on CMD runs, or the word raises `InvalidArgument`
(30_encoding R55, R58); with an input undefined, the outputs are free values (93 U3; log 5). -/
def step (s : State) : Host.Outcome State Fault Refusal :=
  if s.inputsDefined then
    match fetch s with
    | .ok i => exec i s
    | .error e => takeInvalidArgument (causeOfRejection e) s
  else driveUnspecified s

/-- `s` with an instruction of `nbits` bits `w` on the CMD port, where the block finds its command (10_state R21), and
the inputs defined; A and B stay as they are held. The command reaches the port from the host (log 4). -/
def State.withFetchWord (s : State) (nbits w : Nat) : State :=
  match tableWord nbits w with
  | some cmd => { s with inp := { s.inp with cmd := cmd }, inputsDefined := true }
  | none => s

end Sys2Proof.Machine
end

