-- ==== Sys2Proof/Machine/Eval.lean ====
section
/-! DEFINITION. The evaluation as one function of the inputs, `eval : CMD x A x B` (00_scope R15, 10_state R26,
30_encoding R55), under any configuration of the open parameters (92 part 2). -/

namespace Sys2Proof.Machine

/-- The evaluation of a decoded instruction under a configuration (30_encoding R55, parts 1 to 3). -/
def evalInstr (cfg : Config) (i : Instr) (a b : Word) : Evaluation :=
  match i with
  | .addU width => evalAddU cfg width a b
  | .addS width => evalAddS cfg width a b
  | .subU width => evalSubU cfg width a b
  | .subS width => evalSubS cfg width a b
  | .mulU width => evalMulU cfg width a b
  | .mulS width => evalMulS cfg width a b
  | .divU width => evalDivU cfg width a b
  | .divS width => evalDivS cfg width a b
  | .and sg width => evalAnd cfg sg width a b
  | .or sg width => evalOr cfg sg width a b
  | .xor sg width => evalXor cfg sg width a b
  | .not sg width => evalNot cfg sg width a
  | .shl sg width => evalShl cfg sg width a b
  | .shr sg width => evalShr cfg sg width a b
  | .sar sg width => evalSar cfg sg width a b

/-- The whole evaluation of 30_encoding R55: RSV, OP, WIDTH and the shift amount are checked in that order. -/
def eval (cfg : Config) (cmd : CmdWord) (a b : Word) : Evaluation :=
  match decode cmd with
  | .ok i => evalInstr cfg i a b
  | .error e => raiseInvalidArgument (causeOfRejection e)

end Sys2Proof.Machine
end

