-- ==== Sys2Proof/Machine/HostView.lean ====
section
/-! DEFINITION. What a host reads from the output ports: a result port as the source's integer (40_sign_converter R79),
the source's single flag (10_state R29) and its success boolean (R30). None of them is a port. -/

namespace Sys2Proof.Machine

/-- The source's integer on a result port: read unsigned when S = 0, two's-complement when S = 1 (R79). -/
def readPort (sg : Signedness) (x : Word) : Int :=
  match sg with
  | .unsigned => (x.toNat : Int)
  | .signed => toSigned x.toNat 32

/-- The `w`-bit pattern on a result port, `X[w-1:0]` in both modes (R79). -/
def readPattern (x : Word) (w : Nat) : Nat := valueOperand x w

/-- The port value for an integer a host holds: `floor_mod(v, 2^32)` (10_state R27). -/
def portOfInt (v : Int) : Word := BitVec.ofNat 32 (normTo v 32)

/-- The one boolean of the source's add, subtract and multiply: `flag = OVF OR UNF` (10_state R29). -/
def Outputs.flag (o : Outputs) : Bool := o.ovf || o.unf

/-- The source's success boolean: `NOT ERR` (10_state R30). -/
def Outputs.success (o : Outputs) : Bool := !o.err

end Sys2Proof.Machine
end

