-- ==== Sys2Proof/Machine/Sequence.lean ====
section
/-! DEFINITION. Command sequences (30_encoding R62): the list of commands a host issues one after another, with earlier
outputs fed into later inputs. The list is the host's, not the block's (10_state R21); the machine below is `step`. -/

namespace Sys2Proof.Machine

/-- An operand of a command in a sequence: an integer literal (R61), or an output of command number `k`, counted from 1
(R62). -/
inductive SeqOperand where
  /-- An integer literal. -/
  | literal (v : Int)
  /-- `$k`, the value of R. -/
  | result (k : Nat)
  /-- `$k.rem`. -/
  | remainder (k : Nat)
  /-- `$k.ovf`, as 0 or 1. -/
  | overflow (k : Nat)
  /-- `$k.unf`, as 0 or 1. -/
  | underflow (k : Nat)
  /-- `$k.dbz`, as 0 or 1. -/
  | zeroDivide (k : Nat)
  /-- `$k.err`, as 0 or 1. -/
  | error (k : Nat)
deriving DecidableEq, Repr

/-- One command of a sequence. -/
structure SeqCommand where
  cmd : CmdWord
  a : SeqOperand
  b : SeqOperand
deriving DecidableEq, Repr

/-- Why a host cannot issue a sequence. -/
inductive SeqRefusal where
  /-- A literal outside `[-2^31, 2^32 - 1]` (R61). -/
  | literalOutOfRange (v : Int)
  /-- A reference to a command that has not been issued. -/
  | noSuchCommand (k : Nat)
  /-- A use of an output of a command that raised `InvalidArgument` (R62, R133; log 11). -/
  | noResult (k : Nat)
  /-- The machine gave no next state. -/
  | machineStopped
deriving DecidableEq, Repr

/-- A literal on its port: `floor_mod(v, 2^32)`, refused outside `[-2^31, 2^32 - 1]` (R61). -/
def placeLiteral (v : Int) : Except SeqRefusal Word :=
  if -((2 ^ 31 : Nat) : Int) ≤ v ∧ v ≤ ((2 ^ 32 - 1 : Nat) : Int) then .ok (portOfInt v)
  else .error (.literalOutOfRange v)

/-- A flag as a port value. -/
def flagWord (f : Bool) : Word := if f then 1 else 0

/-- The outputs of command number `k`, which has a result (R62). -/
def outputsOfCommand (done : List Outputs) (k : Nat) : Except SeqRefusal Outputs :=
  match k with
  | 0 => .error (.noSuchCommand 0)
  | k + 1 =>
    match done[k]? with
    | none => .error (.noSuchCommand (k + 1))
    | some o => .ok o

/-- The outputs of command number `k`, refused if it raised `InvalidArgument` (R62, R133). -/
def resultOfCommand (done : List Outputs) (k : Nat) : Except SeqRefusal Outputs :=
  match outputsOfCommand done k with
  | .error e => .error e
  | .ok o => if o.err then .error (.noResult k) else .ok o

/-- The port value an operand stands for, after the commands whose outputs are `done` (R62). -/
def resolveOperand (done : List Outputs) : SeqOperand → Except SeqRefusal Word
  | .literal v => placeLiteral v
  | .result k => (resultOfCommand done k).map (·.r)
  | .remainder k => (resultOfCommand done k).map (·.rem)
  | .overflow k => (resultOfCommand done k).map fun o => flagWord o.ovf
  | .underflow k => (resultOfCommand done k).map fun o => flagWord o.unf
  | .zeroDivide k => (resultOfCommand done k).map fun o => flagWord o.dbz
  | .error k => (outputsOfCommand done k).map fun o => flagWord o.err

/-- The machine after the host presents one command and lets the block evaluate it (70_reset R154). -/
def issue (cmd : CmdWord) (a b : Word) (s : State) : Host.Outcome State Fault Refusal := step (s.driveInputs cmd a b)

/-- Issue the commands of a sequence in order; the end state is the list of output tuples (R62, 70_reset R157). -/
def runSequence (s : State) (done : List Outputs) : List SeqCommand → Except SeqRefusal (List Outputs)
  | [] => .ok done
  | c :: rest =>
    match resolveOperand done c.a, resolveOperand done c.b with
    | .ok a, .ok b =>
      match issue c.cmd a b s with
      | .next t => runSequence t (done ++ [t.out]) rest
      | .fault _ => .error .machineStopped
      | .refused _ => .error .machineStopped
    | .error e, _ => .error e
    | _, .error e => .error e

/-- The pseudo-instruction `SCONV.w a = OR.S.w a, 0` (R63, 40_sign_converter R78). -/
def sconvCommand (width : WidthField) (a : SeqOperand) : SeqCommand :=
  { cmd := encode (.or .signed width), a := a, b := .literal 0 }

/-- The pseudo-instruction `NEG.S.w a = SUB.S.w 0, a` (R63, 41_adder R91). -/
def negCommand (width : WidthField) (a : SeqOperand) : SeqCommand :=
  { cmd := encode (.subS width), a := .literal 0, b := a }

end Sys2Proof.Machine
end

