-- ==== Sys2Proof/WellFormed.lean ====
section
/-! DEFINITION. Which instructions are legal commands (30_encoding R58): those whose WIDTH is in WIDTHS. The fields OP,
S and RSV are legal by the shape of `Instr`. -/

namespace Sys2Proof

/-- The width check of 30_encoding R53 under a configuration. -/
def Instr.wellFormedUnder (cfg : Config) (i : Instr) : Bool := cfg.widths.contains i.width.toNat

/-- The width check of 30_encoding R53 on this hardware. -/
def Instr.wellFormed (i : Instr) : Bool := i.wellFormedUnder Config.t64

end Sys2Proof
end

