-- ==== Sys2Proof/Safety.lean ====
section
/-! DEFINITION. What claims about runs say: when a state's outputs carry a result (60_exceptions R133), and what the
output ports of an evaluated command always satisfy (10_state R28, R33, R34; 60_exceptions R133). -/

namespace Sys2Proof.Machine

/-- The outputs carry a result: the command did not raise `InvalidArgument` (R133). -/
def State.hasResult (s : State) : Prop := s.out.err = false

/-- A sequence in which no command raised `InvalidArgument`: the premise a claim about a sequence takes (R133). -/
def errorFree (outs : List Outputs) : Prop := ∀ o ∈ outs, o.err = false

/-- How many of OVF, UNF, DBZ and ERR are 1. -/
def Outputs.flagCount (o : Outputs) : Nat := o.ovf.toNat + o.unf.toNat + o.dbz.toNat + o.err.toNat

/-- A result port lies in the range of the width and mode: bits 31..w are 0 when S = 0, and bits 31..w-1 are all equal
when S = 1 (10_state R33). -/
def inRange (sg : Signedness) (w : Nat) (x : Word) : Prop :=
  match sg with
  | .unsigned => x.toNat < 2 ^ w
  | .signed => -(2 ^ (w - 1) : Int) ≤ x.toInt ∧ x.toInt < 2 ^ (w - 1)

/-- What the outputs of a command satisfy. At most one of the four flags is 1 (R34). With ERR = 1 every other output is
0 (R133). With ERR = 0 the command is a legal one, its shift amount is not negative, and R and REM lie in the range of
its width and mode (R33); REM and DBZ are 0 unless it divides (R25, R28). -/
structure OutputsFit (inp : Inputs) (o : Outputs) : Prop where
  oneFlag : o.flagCount ≤ 1
  errorIsBare : o.err = true → o = errorOutputs
  resultIsLegal : o.err = false →
    ∃ i, decode inp.cmd = .ok i ∧ i.wellFormed = true ∧ (i.isShift = true → inp.b.getLsbD 31 = false) ∧
      inRange i.signedness i.width.toNat o.r ∧ inRange i.signedness i.width.toNat o.rem ∧
      (i.isDiv = false → o.rem = 0 ∧ o.dbz = false)

/-- The invariant of the machine: whenever the inputs are defined, the outputs fit them. -/
def State.Fit (s : State) : Prop := s.inputsDefined = true → OutputsFit s.inp s.out

end Sys2Proof.Machine
end

