-- ==== Sys2Proof/Certificates/Slice0/Obligations.lean ====
section
/-! DEFINITION. The statements for the provers. Each says in its docstring which rule of spec/ it formalises. The words
they share stand first, in `Sys2Proof.Claims`; they read a port's low `w` bits as a `w`-bit vector, and so say in terms
of `BitVec` what the model computes on unbounded integers. -/

open Sys2Proof Sys2Proof.Machine

namespace Sys2Proof.Claims

/-- WIDTH names the legal bit width `w` (30_encoding R53). -/
def LegalWidth (width : WidthField) (w : Nat) : Prop := width.toNat = w ∧ (w = 8 ∨ w = 16 ∨ w = 32)

/-- A `w`-bit vector on a 32-bit result port: zero-extended for S = 0, sign-extended for S = 1 (R76). -/
def extend (sg : Signedness) (x : BitVec w) : Word :=
  match sg with
  | .unsigned => x.setWidth 32
  | .signed => x.signExtend 32

/-- The number of the field S (R51). -/
def sBit (sg : Signedness) : Nat :=
  match sg with
  | .unsigned => 0
  | .signed => 1

/-- The output tuple of a command that raised `InvalidArgument` (60_exceptions R133). -/
def errorTuple : Outputs := { r := 0, rem := 0, ovf := false, unf := false, dbz := false, err := true }

/-- The output tuple of a command that sets no flag and drives REM with 0. -/
def plainTuple (r : Word) : Outputs := { r := r, rem := 0, ovf := false, unf := false, dbz := false, err := false }

/-- The output tuple of a division by zero (43_divider R104). -/
def zeroDivideTuple : Outputs := { r := 0, rem := 0, ovf := false, unf := false, dbz := true, err := false }

/-- The output tuple of a signed operation with result vector `x` and true result `t` (R77). -/
def signedTuple {w : Nat} (x : BitVec w) (t : Int) : Outputs :=
  { r := x.signExtend 32, rem := 0, ovf := decide (t > 2 ^ (w - 1) - 1), unf := decide (t < -(2 ^ (w - 1))),
    dbz := false, err := false }

/-- A row of the opcode table does what its rule says, in every state and for every legal WIDTH: the word
`(w << 5) + low` decodes to the row, and the row COMPLETES, a next state in which the outputs are `outputs w A B` and
nothing else has changed. -/
def ComputesAs (row : WidthField → Instr) (low : Nat) (outputs : Nat → Word → Word → Outputs) : Prop :=
  ∀ (width : WidthField) (w : Nat) (s : State), LegalWidth width w →
    decode (BitVec.ofNat 16 (w * 32 + low)) = .ok (row width) ∧
    exec (row width) s = .next { s with out := outputs w s.inp.a s.inp.b }

/-- The same of a shift, for every amount that is not negative (45_shifter R120): the amount `n` is all of B. -/
def ShiftsAs (row : WidthField → Instr) (low : Nat) (result : Nat → Word → Nat → Word) : Prop :=
  ∀ (width : WidthField) (w : Nat) (s : State), LegalWidth width w → s.inp.b.getLsbD 31 = false →
    decode (BitVec.ofNat 16 (w * 32 + low)) = .ok (row width) ∧
    exec (row width) s = .next { s with out := plainTuple (result w s.inp.a s.inp.b.toNat) }

/-- The legal command words: eleven operations, two values of S, the legal widths (30_encoding R58). -/
def legalWords (cfg : Config) : List CmdWord :=
  (List.range 11).flatMap fun op => [0, 1].flatMap fun sg => cfg.widths.map fun w =>
    BitVec.ofNat 16 (w * 32 + sg * 16 + op)

/-- `RSV != 0` (60_exceptions R131). -/
def HasReservedBits (cmd : CmdWord) : Prop := cmd.toNat / 2048 ≠ 0

/-- `OP` in `0xB` to `0xF` (R131). -/
def HasReservedOpcode (cmd : CmdWord) : Prop := 10 < cmd.toNat % 16

/-- `WIDTH` not in WIDTHS (R131). -/
def HasIllegalWidth (cmd : CmdWord) : Prop :=
  cmd.toNat / 32 % 64 ≠ 8 ∧ cmd.toNat / 32 % 64 ≠ 16 ∧ cmd.toNat / 32 % 64 ≠ 32

/-- `B[31] = 1` in SHL, SHR or SAR (R131). -/
def HasNegativeShift (cmd : CmdWord) (b : Word) : Prop :=
  8 ≤ cmd.toNat % 16 ∧ cmd.toNat % 16 ≤ 10 ∧ b.getLsbD 31 = true

/-- A sequence whose operands are literals: the commands and the integers a host holds for A and B (30_encoding R62). -/
def literalSequence (cs : List (CmdWord × Int × Int)) : List SeqCommand :=
  cs.map fun c => { cmd := c.1, a := .literal c.2.1, b := .literal c.2.2 }

/-- A literal that the assembler accepts (30_encoding R61). -/
def FitsPort (v : Int) : Prop := -(2 ^ 31) ≤ v ∧ v ≤ 2 ^ 32 - 1

/-- The table of 10_state R28: OVF, UNF and DBZ of a command that raised nothing. -/
def flagTable (i : Instr) (a b : Word) : Bool × Bool × Bool :=
  let w := i.width.toNat
  let ua : Int := (a.setWidth w).toNat
  let ub : Int := (b.setWidth w).toNat
  let sa := (a.setWidth w).toInt
  let sb := (b.setWidth w).toInt
  let signedRange (t : Int) : Bool × Bool × Bool :=
    (decide (2 ^ (w - 1) - 1 < t), decide (t < -(2 ^ (w - 1))), false)
  match i with
  | .addU _ => (decide (2 ^ w - 1 < ua + ub), false, false)
  | .subU _ => (false, decide (ua - ub < 0), false)
  | .addS _ => signedRange (sa + sb)
  | .subS _ => signedRange (sa - sb)
  | .mulU _ => (decide (2 ^ w - 1 < ua * ub), false, false)
  | .mulS _ => signedRange (sa * sb)
  | .divU _ => (false, false, decide (ub = 0))
  | .divS _ => (decide (sa = -(2 ^ (w - 1)) ∧ sb = -1), false, decide (sb = 0))
  | .and _ _ | .or _ _ | .xor _ _ | .not _ _ | .shl _ _ | .shr _ _ | .sar _ _ => (false, false, false)

end Sys2Proof.Claims

open Sys2Proof.Claims

/-! ## The fifteen rows -/

/-- R85, whole: encoding, result, OVF, the other outputs. -/
def Obligations.AddUnsignedComputes : Prop :=
  ComputesAs .addU 0x00 fun w a b =>
    { r := (a.setWidth w + b.setWidth w).setWidth 32, rem := 0,
      ovf := decide (2 ^ w ≤ (a.setWidth w).toNat + (b.setWidth w).toNat), unf := false, dbz := false, err := false }

/-- R87: encoding, result, OVF on the high side, UNF on the low side. -/
def Obligations.AddSignedComputes : Prop :=
  ComputesAs .addS 0x10 fun w a b =>
    signedTuple (a.setWidth w + b.setWidth w) ((a.setWidth w).toInt + (b.setWidth w).toInt)

/-- R86, whole: UNF exactly when `a' < b'`. -/
def Obligations.SubUnsignedComputes : Prop :=
  ComputesAs .subU 0x01 fun w a b =>
    { r := (a.setWidth w - b.setWidth w).setWidth 32, rem := 0, ovf := false,
      unf := decide ((a.setWidth w).toNat < (b.setWidth w).toNat), dbz := false, err := false }

/-- R88. -/
def Obligations.SubSignedComputes : Prop :=
  ComputesAs .subS 0x11 fun w a b =>
    signedTuple (a.setWidth w - b.setWidth w) ((a.setWidth w).toInt - (b.setWidth w).toInt)

/-- R95. -/
def Obligations.MulUnsignedComputes : Prop :=
  ComputesAs .mulU 0x02 fun w a b =>
    { r := (a.setWidth w * b.setWidth w).setWidth 32, rem := 0,
      ovf := decide (2 ^ w ≤ (a.setWidth w).toNat * (b.setWidth w).toNat), unf := false, dbz := false, err := false }

/-- R96. -/
def Obligations.MulSignedComputes : Prop :=
  ComputesAs .mulS 0x12 fun w a b =>
    signedTuple (a.setWidth w * b.setWidth w) ((a.setWidth w).toInt * (b.setWidth w).toInt)

/-- R100: the zero test on the masked divisor, quotient and remainder, no flag but DBZ. -/
def Obligations.DivUnsignedComputes : Prop :=
  ComputesAs .divU 0x03 fun w a b =>
    if b.setWidth w = 0 then zeroDivideTuple
    else
      { r := (a.setWidth w / b.setWidth w).setWidth 32, rem := (a.setWidth w % b.setWidth w).setWidth 32,
        ovf := false, unf := false, dbz := false, err := false }

/-- R101: floored quotient, remainder with the divisor's sign (`BitVec.smod`), OVF exactly for the minimum by -1. -/
def Obligations.DivSignedComputes : Prop :=
  ComputesAs .divS 0x13 fun w a b =>
    if b.setWidth w = 0 then zeroDivideTuple
    else
      { r := (BitVec.ofInt w (Int.fdiv (a.setWidth w).toInt (b.setWidth w).toInt)).signExtend 32,
        rem := ((a.setWidth w).smod (b.setWidth w)).signExtend 32,
        ovf := decide ((a.setWidth w).toInt = -(2 ^ (w - 1)) ∧ (b.setWidth w).toInt = -1),
        unf := false, dbz := false, err := false }

/-- R110, for both values of S. -/
def Obligations.AndComputes : Prop :=
  ∀ sg, ComputesAs (.and sg) (sBit sg * 16 + 0x4) fun w a b => plainTuple (extend sg (a.setWidth w &&& b.setWidth w))

/-- R111, for both values of S. -/
def Obligations.OrComputes : Prop :=
  ∀ sg, ComputesAs (.or sg) (sBit sg * 16 + 0x5) fun w a b => plainTuple (extend sg (a.setWidth w ||| b.setWidth w))

/-- R112, for both values of S. -/
def Obligations.XorComputes : Prop :=
  ∀ sg, ComputesAs (.xor sg) (sBit sg * 16 + 0x6) fun w a b => plainTuple (extend sg (a.setWidth w ^^^ b.setWidth w))

/-- R113, for both values of S; no bit of B affects any output. -/
def Obligations.NotComputes : Prop :=
  ∀ sg, ComputesAs (.not sg) (sBit sg * 16 + 0x7) fun w a _ => plainTuple (extend sg (~~~(a.setWidth w)))

/-- R121, for both values of S: the amount is neither masked nor reduced, and has no upper limit (R120). -/
def Obligations.ShlComputes : Prop :=
  ∀ sg, ShiftsAs (.shl sg) (sBit sg * 16 + 0x8) fun w a n => extend sg (a.setWidth w <<< n)

/-- R122, for both values of S. -/
def Obligations.ShrComputes : Prop :=
  ∀ sg, ShiftsAs (.shr sg) (sBit sg * 16 + 0x9) fun w a n => extend sg (a.setWidth w >>> n)

/-- R123, for both values of S. -/
def Obligations.SarComputes : Prop :=
  ∀ sg, ShiftsAs (.sar sg) (sBit sg * 16 + 0xA) fun w a n => extend sg ((a.setWidth w).sshiftRight n)

/-! ## Where an instruction takes the exception -/

/-- 60_exceptions R133 with 30_encoding R53: at an illegal WIDTH every instruction drives the error tuple. That this is a
next state is the model's choice (log 1). -/
def Obligations.IllegalWidthTakesTheException : Prop :=
  ∀ (i : Instr) (s : State), (∀ w, ¬ LegalWidth i.width w) → exec i s = .next { s with out := errorTuple }

/-- 60_exceptions R133 with 45_shifter R120: at a legal WIDTH a shift by a negative amount drives the error tuple. That
this is a next state is the model's choice (log 1). -/
def Obligations.NegativeAmountTakesTheException : Prop :=
  ∀ (i : Instr) (w : Nat) (s : State), i.isShift = true → LegalWidth i.width w → s.inp.b.getLsbD 31 = true →
    exec i s = .next { s with out := errorTuple }

/-! ## Encoding -/

/-- Every instruction, with every WIDTH and S, is read back from its own word. -/
def Obligations.DecodeOfEncodeIsTheInstruction : Prop := ∀ i, decode (encode i) = .ok i

/-- A word has at most one reading: what decodes to an instruction is that instruction's own word (R50). -/
def Obligations.EncodeOfDecodeIsTheWord : Prop := ∀ cmd i, decode cmd = .ok i → encode i = cmd

/-- R58: exactly 66 words are legal, 44 without HAS_W32; a legal word has a result for every A and every B that is not a
negative amount, and every other word raises `InvalidArgument` whatever A and B hold. -/
def Obligations.LegalCommandsAreSixtySix : Prop :=
  ∀ cfg : Config,
    (legalWords cfg).Nodup ∧ (legalWords cfg).length = (if cfg.hasW32 then 66 else 44) ∧
    (∀ cmd ∈ legalWords cfg, ∀ a b, b.getLsbD 31 = false → ∃ x, eval cfg cmd a b = .ok x) ∧
    (∀ cmd, cmd ∉ legalWords cfg → ∀ a b, ∃ cause, eval cfg cmd a b = .error (.invalidArgument cause))

/-- R64, the worked examples, written out bit by bit.
An inference of the spec itself: R64, which the spec marks as derived. -/
def Obligations.EncodingExamplesDecode : Prop :=
  decode 0b0000000100000000#16 = .ok (.addU 8) ∧
  decode 0b0000001000010011#16 = .ok (.divS 16) ∧
  decode 0b0000010000011010#16 = .ok (.sar .signed 32) ∧
  decode 0b0000000110000100#16 = .ok (.and .unsigned 12) ∧
  eval Config.t64 0b0000000110000100#16 1 2 = .error (.invalidArgument .bitWidth)

/-! ## The step -/

/-- With defined inputs whose word decodes to `i`, a step is `exec i` at the same state (30_encoding R55). -/
def Obligations.StepRunsDecodedInstruction : Prop :=
  ∀ s i, s.inputsDefined = true → decode s.inp.cmd = .ok i → step s = exec i s

/-- 10_state R26, 30_encoding R55: the step drives the outputs with `eval` of the inputs and changes nothing else. That a
command that raises is a next state too, with the error tuple, is the model's choice (log 1), and so is that State holds
the outputs (log 3). -/
def Obligations.StepIsTheEvaluation : Prop :=
  ∀ s, s.inputsDefined = true →
    step s = .next { s with out := outputsOf (eval Config.t64 s.inp.cmd s.inp.a s.inp.b) }

/-- 70_reset R157: the block never halts or stops answering, whatever the state; the inputs are held (R154).
An inference of the spec itself: R157, which the spec marks as derived. Two clauses are the model's choice: that a step
goes on while an input is undefined (log 5; 93 U3 lets no rule say so), and that it goes on after an `InvalidArgument`
(log 1). -/
def Obligations.EveryStepGoesOnAndHoldsInputs : Prop :=
  ∀ s, ∃ t, step s = .next t ∧ t.inp = s.inp ∧ t.inputsDefined = s.inputsDefined

/-- 60_exceptions R131 and R133: an evaluation raises `InvalidArgument` exactly under the four conditions; then, and only
then, ERR is 1, there is no result, and the outputs are the error tuple. -/
def Obligations.ErrExactlyOnInvalidArgument : Prop :=
  ∀ (cmd : CmdWord) (a b : Word),
    ((∃ cause, eval Config.t64 cmd a b = .error (.invalidArgument cause)) ↔
      HasReservedBits cmd ∨ HasReservedOpcode cmd ∨ HasIllegalWidth cmd ∨ HasNegativeShift cmd b) ∧
    ((outputsOf (eval Config.t64 cmd a b)).err = true ↔
      ∃ cause, eval Config.t64 cmd a b = .error (.invalidArgument cause)) ∧
    ((outputsOf (eval Config.t64 cmd a b)).err = true → outputsOf (eval Config.t64 cmd a b) = errorTuple)

/-- 60_exceptions R136, points 1 to 3: the cause an evaluation records is the first that applies, in the order of R55,
and if none applies the evaluation has a result. -/
def Obligations.CausesFollowTheOrderOfValidation : Prop :=
  ∀ cmd a b,
    (HasReservedBits cmd → eval Config.t64 cmd a b = .error (.invalidArgument .reservedBits)) ∧
    (¬ HasReservedBits cmd → HasReservedOpcode cmd →
      eval Config.t64 cmd a b = .error (.invalidArgument .reservedOpcode)) ∧
    (¬ HasReservedBits cmd → ¬ HasReservedOpcode cmd → HasIllegalWidth cmd →
      eval Config.t64 cmd a b = .error (.invalidArgument .bitWidth)) ∧
    (¬ HasReservedBits cmd → ¬ HasReservedOpcode cmd → ¬ HasIllegalWidth cmd → HasNegativeShift cmd b →
      eval Config.t64 cmd a b = .error (.invalidArgument .negativeShift)) ∧
    (¬ HasReservedBits cmd → ¬ HasReservedOpcode cmd → ¬ HasIllegalWidth cmd → ¬ HasNegativeShift cmd b →
      ∃ x, eval Config.t64 cmd a b = .ok x)

/-- 20_memory R43: an evaluation is idempotent, the same inputs give the same outputs again.
An inference of the spec itself: R43, which the spec marks as derived. -/
def Obligations.StepIsIdempotent : Prop :=
  ∀ s t, s.inputsDefined = true → step s = .next t → step t = .next t

/-- 20_memory R46, (a) to (c): the outputs depend on that evaluation's inputs alone, two evaluations commute, and repeating
one changes nothing. -/
def Obligations.OutputsDependOnInputsAlone : Prop :=
  (∀ (s s' t t' : State) cmd a b, step (s.driveInputs cmd a b) = .next t → step (s'.driveInputs cmd a b) = .next t' →
    t.out = t'.out) ∧
  (∀ (s t u t' u' : State) cmd a b cmd' a' b',
    step (s.driveInputs cmd a b) = .next t → step (t.driveInputs cmd' a' b') = .next u →
    step (s.driveInputs cmd' a' b') = .next t' → step (t'.driveInputs cmd a b) = .next u' →
    t.out = u'.out ∧ u.out = t'.out) ∧
  (∀ (s t u : State) cmd a b, step (s.driveInputs cmd a b) = .next t → step (t.driveInputs cmd a b) = .next u → t = u)

/-- 20_memory R46, 60_exceptions R139: in a run of commands from any state each output tuple is the evaluation of that
command's own inputs, whatever came before, an `InvalidArgument` included (30_encoding R61, R62; 70_reset R157). An
inference of the spec itself: R139 and R157, which the spec marks as derived. That the sequence goes on after an
`InvalidArgument` is the model's choice (log 1). -/
def Obligations.SequencesHaveNoMemory : Prop :=
  ∀ (cs : List (CmdWord × Int × Int)) (s : State) (done : List Outputs),
    (∀ c ∈ cs, FitsPort c.2.1 ∧ FitsPort c.2.2) →
    runSequence s done (literalSequence cs) =
      .ok (done ++ cs.map fun c =>
        outputsOf (eval Config.t64 c.1 (BitVec.ofInt 32 c.2.1) (BitVec.ofInt 32 c.2.2)))

/-- 93 U3 as the model takes it (log 5): with an input undefined a step still goes on, holds the inputs, and uses one
free value; nothing is said of the outputs. -/
def Obligations.UndefinedInputsStillStep : Prop :=
  ∀ s, s.inputsDefined = false →
    ∃ o, step s = .next { s with out := o, freeCount := s.freeCount + 1 }

/-- A command word placed on the port is the next to run, in every state (log 4). -/
def Obligations.PlacedCommandRunsNext : Prop :=
  ∀ (s : State) (i : Instr), step (s.withFetchWord 16 (encode i).toNat) =
    exec i { s with inp := { s.inp with cmd := encode i }, inputsDefined := true }

/-! ## Invariants -/

/-- Every step leaves outputs that fit the inputs held: at most one flag (10_state R34, an inference of the spec itself,
which it marks as derived), a bare error (R133), results in the range of the width and mode (R33), REM and DBZ for DIV
alone (R25, R28). -/
def Obligations.StepKeepsOutputsFit : Prop := ∀ s t, s.Fit → step s = .next t → t.Fit

/-- 10_state R33: for every command that does not raise `InvalidArgument`, R and REM lie in the range of the selected
width and mode. -/
def Obligations.ResultsLieInRange : Prop :=
  ∀ (i : Instr) (s t : State), exec i s = .next t → t.out.err = false →
    inRange i.signedness i.width.toNat t.out.r ∧ inRange i.signedness i.width.toNat t.out.rem

/-- 10_state R28: every command drives OVF, UNF and DBZ as the table says, all to 0 if it raised `InvalidArgument`. -/
def Obligations.FlagsFollowTheTable : Prop :=
  ∀ (i : Instr) (s t : State), exec i s = .next t →
    (t.out.ovf, t.out.unf, t.out.dbz) =
      if t.out.err then (false, false, false) else flagTable i s.inp.a s.inp.b

/-- The state the model starts from (its input values are the model's choice, log 2) has outputs that fit. -/
def Obligations.ResetOutputsFit : Prop := State.reset.Fit

/-- 70_reset R151 with the input values of log 2: the outputs of `reset` are the ones its inputs define, so that a step
from it changes nothing. `CMD = 0x0000` raises: that the step is a next state is the model's choice (log 1). -/
def Obligations.ResetIsSettled : Prop := step State.reset = .next State.reset

/-! ## What the operands and S do -/

/-- 10_state R35: two values of A that agree in their low `w` bits give the same evaluation, and two values of B
likewise where B is a value operand; under every configuration. As a shift amount B is not normalised.
An inference of the spec itself: R35, which the spec marks as derived. -/
def Obligations.OperandsAreNormalised : Prop :=
  (∀ cfg i (a a' b b' : Word),
    a.toNat % 2 ^ i.width.toNat = a'.toNat % 2 ^ i.width.toNat →
    (if i.isShift then b = b' else b.toNat % 2 ^ i.width.toNat = b'.toNat % 2 ^ i.width.toNat) →
    evalInstr cfg i a b = evalInstr cfg i a' b') ∧
  (∃ (i : Instr) (a b b' : Word), i.isShift = true ∧
    b.toNat % 2 ^ i.width.toNat = b'.toNat % 2 ^ i.width.toNat ∧
    evalInstr Config.t64 i a b ≠ evalInstr Config.t64 i a b')

/-- 10_state R27: a 32-bit port carries all that an operation sees of an integer of any size or sign.
An inference of the spec itself: R27, which the spec marks as derived. -/
def Obligations.PortsLoseNothing : Prop :=
  ∀ (v : Int) (w : Nat), w = 8 ∨ w = 16 ∨ w = 32 → valueOperand (portOfInt v) w = normTo v w

/-- 40_sign_converter R79: the host reads back from a result port the pattern, and the integer it stands for.
An inference of the spec itself: R79, which the spec marks as derived. -/
def Obligations.PresentedPortReadsBack : Prop :=
  ∀ (w p : Nat) (sg : Signedness), w = 8 ∨ w = 16 ∨ w = 32 → p < 2 ^ w →
    readPattern (present p sg w) w = p ∧
    readPort sg (present p sg w) = (match sg with | .unsigned => (p : Int) | .signed => toSigned p w)

/-- 40_sign_converter R73: `to_pattern` and `to_signed` are inverse on the signed range and on the patterns.
An inference of the spec itself: R73, which the spec marks as derived. -/
def Obligations.SignConversionInverts : Prop :=
  ∀ w, w = 8 ∨ w = 16 ∨ w = 32 →
    (∀ v : Int, -(2 ^ (w - 1)) ≤ v → v ≤ 2 ^ (w - 1) - 1 → toSigned (toPattern v w) w = v) ∧
    (∀ p : Nat, p ≤ 2 ^ w - 1 → toPattern (toSigned p w) w = p)

/-- 40_sign_converter R74, for every width of at least one bit: both spellings of the wrap, its range, its congruence
to the true result modulo `2^w`, and that it changes nothing in range. -/
def Obligations.WrapLandsInRange : Prop :=
  ∀ (t : Int) (w : Nat), 0 < w →
    wrapSigned t w = (t + (2 ^ (w - 1) - 1) + 1).fmod (2 * ((2 ^ (w - 1) - 1) + 1)) - ((2 ^ (w - 1) - 1) + 1) ∧
    wrapSigned t w = (t + 2 ^ (w - 1)).fmod (2 ^ w) - 2 ^ (w - 1) ∧
    -(2 ^ (w - 1)) ≤ wrapSigned t w ∧ wrapSigned t w ≤ 2 ^ (w - 1) - 1 ∧ (2 ^ w ∣ wrapSigned t w - t) ∧
    (-(2 ^ (w - 1)) ≤ t → t ≤ 2 ^ (w - 1) - 1 → wrapSigned t w = t)

/-- 40_sign_converter R76: the port that presents a `w`-bit pattern, bit by bit, as a number, and as the integer the
source returns. -/
def Obligations.PresentDrivesThePort : Prop :=
  ∀ (w p : Nat), w = 8 ∨ w = 16 ∨ w = 32 → p < 2 ^ w →
    (present p .unsigned w).toNat = p ∧
    (present p .signed w).toNat = (if p.testBit (w - 1) then p + 2 ^ 32 - 2 ^ w else p) ∧
    (∀ k < 32, (present p .unsigned w).getLsbD k = (decide (k < w) && p.testBit k) ∧
      (present p .signed w).getLsbD k = p.testBit (min k (w - 1))) ∧
    (present p .signed w).toInt = toSigned p w

/-- 40_sign_converter R75, for every width of at least one bit.
An inference of the spec itself: R75, which the spec marks as derived. -/
def Obligations.WrapIsMaskAndReread : Prop :=
  ∀ (t : Int) (w : Nat), 0 < w → wrapSigned t w = toSigned (normTo t w) w

/-- 41_adder R90: one datapath. The low `w` bits of signed and unsigned ADD and SUB are the same, and the flags are the
carry, the borrow, and the carry into the sign bit against the carry out of it (SUB as `a + ~b + 1`), with the side told
by the sign bit of the result.
An inference of the spec itself: R90, which the spec marks as derived. -/
def Obligations.AdderFlagsAreCarries : Prop :=
  ∀ (width : WidthField) (w : Nat) (s : State), LegalWidth width w →
    ∃ au as su ss,
      exec (.addU width) s = .next { s with out := au } ∧ exec (.addS width) s = .next { s with out := as } ∧
      exec (.subU width) s = .next { s with out := su } ∧ exec (.subS width) s = .next { s with out := ss } ∧
      au.r.setWidth w = as.r.setWidth w ∧ su.r.setWidth w = ss.r.setWidth w ∧
      au.ovf = BitVec.carry w (s.inp.a.setWidth w) (s.inp.b.setWidth w) false ∧
      su.unf = !(BitVec.carry w (s.inp.a.setWidth w) (~~~(s.inp.b.setWidth w)) true) ∧
      (as.ovf || as.unf) =
        (BitVec.carry (w - 1) (s.inp.a.setWidth w) (s.inp.b.setWidth w) false ^^
          BitVec.carry w (s.inp.a.setWidth w) (s.inp.b.setWidth w) false) ∧
      (ss.ovf || ss.unf) =
        (BitVec.carry (w - 1) (s.inp.a.setWidth w) (~~~(s.inp.b.setWidth w)) true ^^
          BitVec.carry w (s.inp.a.setWidth w) (~~~(s.inp.b.setWidth w)) true) ∧
      as.ovf = ((as.ovf || as.unf) && (as.r.setWidth w).msb) ∧
      as.unf = ((as.ovf || as.unf) && !(as.r.setWidth w).msb) ∧
      ss.ovf = ((ss.ovf || ss.unf) && (ss.r.setWidth w).msb) ∧
      ss.unf = ((ss.ovf || ss.unf) && !(ss.r.setWidth w).msb)

/-- 42_multiplier R98: overflow from the exact `2w`-bit products `P` and `Q`.
An inference of the spec itself: R98, which the spec marks as derived. -/
def Obligations.MultiplierFlagsFromExactProducts : Prop :=
  ∀ (width : WidthField) (w : Nat) (s : State) (P Q : BitVec (2 * w)), LegalWidth width w →
    P = (s.inp.a.setWidth w).setWidth (2 * w) * (s.inp.b.setWidth w).setWidth (2 * w) →
    Q = (s.inp.a.setWidth w).signExtend (2 * w) * (s.inp.b.setWidth w).signExtend (2 * w) →
    ∃ u v, exec (.mulU width) s = .next { s with out := u } ∧ exec (.mulS width) s = .next { s with out := v } ∧
      u.ovf = decide (P.extractLsb' w w ≠ 0) ∧
      (v.ovf || v.unf) =
        decide (Q.extractLsb' (w - 1) (w + 1) ≠ 0 ∧ Q.extractLsb' (w - 1) (w + 1) ≠ BitVec.allOnes (w + 1)) ∧
      v.ovf = ((v.ovf || v.unf) && !Q.msb) ∧ v.unf = ((v.ovf || v.unf) && Q.msb)

/-- 43_divider R105: the division identities on the integers the host reads from R and REM.
An inference of the spec itself: R105, which the spec marks as derived. -/
def Obligations.DivisionIdentitiesHold : Prop :=
  ∀ (width : WidthField) (w : Nat) (s : State), LegalWidth width w → s.inp.b.setWidth w ≠ 0 →
    ∃ u v, exec (.divU width) s = .next { s with out := u } ∧ exec (.divS width) s = .next { s with out := v } ∧
      ((valueOperand s.inp.a w : Int) =
          readPort .unsigned u.r * (valueOperand s.inp.b w : Int) + readPort .unsigned u.rem ∧
        0 ≤ readPort .unsigned u.rem ∧ readPort .unsigned u.rem < (valueOperand s.inp.b w : Int)) ∧
      (v.ovf = false →
        signedOperand s.inp.a w = readPort .signed v.r * signedOperand s.inp.b w + readPort .signed v.rem ∧
        (0 < signedOperand s.inp.b w →
          0 ≤ readPort .signed v.rem ∧ readPort .signed v.rem < signedOperand s.inp.b w) ∧
        (signedOperand s.inp.b w < 0 →
          signedOperand s.inp.b w < readPort .signed v.rem ∧ readPort .signed v.rem ≤ 0)) ∧
      (v.ovf = true → readPort .signed v.r = minSigned w ∧ readPort .signed v.rem = 0)

/-- 43_divider R104: DBZ is 1 exactly for a division at a legal width whose masked divisor is 0, and then the outputs are
the same tuple whatever the dividend and S. -/
def Obligations.DbzExactlyOnZeroDivisor : Prop :=
  ∀ i s t, exec i s = .next t →
    (t.out.dbz = true ↔ i.isDiv = true ∧ i.wellFormed = true ∧ s.inp.b.toNat % 2 ^ i.width.toNat = 0) ∧
    (t.out.dbz = true → t.out = zeroDivideTuple)

/-- 43_divider R102: floored and truncating division give different evaluations exactly when the operands have opposite
signs and the division is inexact. What `trunc` gives is the model's reading (log 7). -/
def Obligations.RoundingMattersOnOppositeSigns : Prop :=
  ∀ (cfg : Config) (width : WidthField) (w : Nat) (a b : Word), LegalWidth width w →
    widthIsLegal cfg width = true → b.setWidth w ≠ 0 →
    (evalDivS { cfg with divRounding := .trunc } width a b ≠ evalDivS { cfg with divRounding := .floor } width a b ↔
      ¬ (signedOperand b w ∣ signedOperand a w) ∧ (signedOperand a w < 0 ↔ 0 < signedOperand b w))

/-! ## Identities between commands -/

/-- 44_bitwise R114, on the ports, with the same S and width for both commands.
An inference of the spec itself: R114, whose clause on signed mode the spec marks as derived. -/
def Obligations.NotIsAnInvolution : Prop :=
  ∀ (sg : Signedness) (width : WidthField) (w : Nat) (s : State), LegalWidth width w →
    ∃ t u, exec (.not sg width) s = .next t ∧
      exec (.not sg width) (t.driveInputs t.inp.cmd t.out.r t.inp.b) = .next u ∧
      u.out.r.setWidth w = s.inp.a.setWidth w ∧ u.out.r = present (valueOperand s.inp.a w) sg w

/-- 44_bitwise R115: the six identity commands normalise and present A, with every flag 0.
An inference of the spec itself: R115, which the spec marks as derived. -/
def Obligations.IdentityCommandsPresentA : Prop :=
  ∀ (sg : Signedness) (width : WidthField) (w : Nat) (s : State), LegalWidth width w →
    ((s.inp.b = 0 → ∀ i ∈ [Instr.or sg width, .xor sg width, .shl sg width, .shr sg width, .sar sg width],
        exec i s = .next { s with out := plainTuple (present (valueOperand s.inp.a w) sg w) }) ∧
      (s.inp.b.toNat = mask w →
        exec (.and sg width) s = .next { s with out := plainTuple (present (valueOperand s.inp.a w) sg w) }))

/-- 40_sign_converter R78 and 30_encoding R63: SCONV gives the 32-bit two's-complement value of the low `w` bits.
An inference of the spec itself: R78, which the spec marks as derived. -/
def Obligations.SconvIsTheSignConverter : Prop :=
  ∀ (width : WidthField) (w : Nat) (v : Int) (s : State), LegalWidth width w → FitsPort v →
    runSequence s [] [sconvCommand width (.literal v)] =
      .ok [plainTuple (BitVec.ofInt 32 (toSigned (normTo v w) w))]

/-- 40_sign_converter R80 and 41_adder R91: NEG gives `-a`, but the minimum again with OVF for the minimum; and NOT
followed by ADD 1 gives the same outputs.
An inference of the spec itself: R80 and R91, which the spec marks as derived. -/
def Obligations.NegationTwoWays : Prop :=
  ∀ (width : WidthField) (w : Nat) (v : Int) (s : State), LegalWidth width w → FitsPort v →
    runSequence s [] [negCommand width (.literal v)] =
      .ok [{ plainTuple (BitVec.ofInt 32
              (if toSigned (normTo v w) w = minSigned w then minSigned w else -toSigned (normTo v w) w)) with
             ovf := decide (toSigned (normTo v w) w = minSigned w) }] ∧
    ∃ n m, runSequence s []
        [{ cmd := encode (.not .signed width), a := .literal v, b := .literal 0 },
         { cmd := encode (.addS width), a := .result 1, b := .literal 1 },
         negCommand width (.literal v)] = .ok [n, m, m]

/-- 45_shifter R124: whatever S, SHR fills with zeros and SAR with copies of bit `w-1` of the masked input; S selects
the presentation only, and SHR.S differs from SHR.U only for the amount 0 and a set sign bit. -/
def Obligations.OpcodeAloneSelectsTheShift : Prop :=
  ∀ (width : WidthField) (w : Nat) (s : State), LegalWidth width w → s.inp.b.getLsbD 31 = false →
    (∀ sg, ∃ l r, exec (.shr sg width) s = .next { s with out := l } ∧
      exec (.sar sg width) s = .next { s with out := r } ∧
      (∀ k < w, l.r.getLsbD k = (decide (k + s.inp.b.toNat < w) && s.inp.a.getLsbD (k + s.inp.b.toNat)) ∧
        r.r.getLsbD k = s.inp.a.getLsbD (min (k + s.inp.b.toNat) (w - 1))) ∧
      (∀ k, w ≤ k → k < 32 →
        l.r.getLsbD k = (sg == .signed && l.r.getLsbD (w - 1)) ∧
        r.r.getLsbD k = (sg == .signed && r.r.getLsbD (w - 1)))) ∧
    (exec (.shr .signed width) s ≠ exec (.shr .unsigned width) s →
      s.inp.b = 0 ∧ s.inp.a.getLsbD (w - 1) = true)

/-- 45_shifter R125: for the same A, width and amount of at least 1, SHR and SAR give the same pattern if the sign bit
is clear, and differ in exactly the top `min(n, w)` bits, 0 for SHR and 1 for SAR, if it is set. -/
def Obligations.RightShiftsDiverge : Prop :=
  ∀ (sg sg' : Signedness) (width : WidthField) (w : Nat) (s : State), LegalWidth width w →
    s.inp.b.getLsbD 31 = false → s.inp.b ≠ 0 →
    ∃ l r, exec (.shr sg width) s = .next { s with out := l } ∧ exec (.sar sg' width) s = .next { s with out := r } ∧
      (s.inp.a.getLsbD (w - 1) = false → l.r.setWidth w = r.r.setWidth w) ∧
      (s.inp.a.getLsbD (w - 1) = true → ∀ k < w,
        if w - min s.inp.b.toNat w ≤ k then l.r.getLsbD k = false ∧ r.r.getLsbD k = true
        else l.r.getLsbD k = r.r.getLsbD k)

/-- 45_shifter R127: SHL.U against MUL.U by a power of two, SAR.S and SHR.U against the quotients of DIV.S and DIV.U.
An inference of the spec itself: R127, which the spec marks as derived. -/
def Obligations.ShiftsAgreeWithMulAndDiv : Prop :=
  ∀ (width : WidthField) (w n : Nat) (s t : State), LegalWidth width w →
    s.inp.b.toNat = n → t.inp.a = s.inp.a → t.inp.b.toNat = 2 ^ n →
    (n < w → ∃ x y, exec (.shl .unsigned width) s = .next { s with out := x } ∧
      exec (.mulU width) t = .next { t with out := y } ∧ x.r = y.r ∧ x.ovf = false ∧
      y.ovf = decide (mask w < valueOperand s.inp.a w * 2 ^ n)) ∧
    (n ≤ w - 2 → ∃ x y, exec (.sar .signed width) s = .next { s with out := x } ∧
      exec (.divS width) t = .next { t with out := y } ∧ x.r = y.r) ∧
    (n ≤ w - 1 → ∃ x y, exec (.shr .unsigned width) s = .next { s with out := x } ∧
      exec (.divU width) t = .next { t with out := y } ∧ x.r = y.r)

/-! ## The open parameters -/

/-- 00_scope R9, 30_encoding R53: without HAS_W32 the width 32 raises `InvalidArgument(bit_width)` in every
instruction, and nothing else changes. -/
def Obligations.WidthThirtyTwoIsAnOption : Prop :=
  ∀ (cfg : Config) (i : Instr) (a b : Word),
    evalInstr { cfg with hasW32 := false } i a b =
      if i.width.toNat = 32 then .error (.invalidArgument .bitWidth) else evalInstr cfg i a b

/-- 92 D14: with `P_SHL_OVF = 1` SHL sets OVF exactly when `a' * 2^n` exceeds `mask(w)`; R121: with 0 it never does. The
other outputs are the same. -/
def Obligations.ShlOverflowIsAnOption : Prop :=
  ∀ (cfg : Config) (sg : Signedness) (width : WidthField) (a b : Word), widthIsLegal cfg width = true →
    b.getLsbD 31 = false →
    ∃ x, evalShl { cfg with shlOvf := false } sg width a b = .ok x ∧ x.ovf = false ∧
      evalShl { cfg with shlOvf := true } sg width a b =
        .ok { x with ovf := decide (mask width.toNat < valueOperand a width.toNat * 2 ^ b.toNat) }
end

