-- ==== Sys2Proof/Laws/Decode.lean ====
section
/-! SUPPORT. What the decoder does, said once: the fields of a command word as numbers (30_encoding R51) and the two ways
an OP decodes (R54). -/

namespace Sys2Proof

theorem opField_toNat (cmd : CmdWord) : (opField cmd).toNat = cmd.toNat % 16 := by
  simp [opField, BitVec.extractLsb'_toNat]

theorem widthField_toNat (cmd : CmdWord) : (widthField cmd).toNat = cmd.toNat / 32 % 64 := by
  simp [widthField, BitVec.extractLsb'_toNat, Nat.shiftRight_eq_div_pow]

theorem rsvField_toNat (cmd : CmdWord) : (rsvField cmd).toNat = cmd.toNat / 2048 := by
  have := cmd.isLt
  simp [rsvField, BitVec.extractLsb'_toNat, Nat.shiftRight_eq_div_pow]
  omega

/-- An OP above `0xA` is rejected; any other gives an instruction with the WIDTH it was given, a shift exactly from OP 8
up (R54). -/
theorem decodeOp_spec (op : Nat) (sg : Signedness) (width : WidthField) :
    (10 < op ∧ decodeOp op sg width = .error .reservedOpcode) ∨
      (op ≤ 10 ∧ ∃ i, decodeOp op sg width = .ok i ∧ i.width = width ∧ (i.isShift = true ↔ 8 ≤ op)) := by
  rcases Nat.lt_or_ge 10 op with h | h
  · refine .inl ⟨h, ?_⟩
    unfold decodeOp
    split <;> first | omega | rfl
  · refine .inr ⟨h, ?_⟩
    interval_cases op <;> cases sg <;> exact ⟨_, rfl, rfl, by simp [Instr.isShift]⟩

end Sys2Proof
end

