-- ==== Sys2Proof/Laws/Operands.lean ====
section
/-! SUPPORT. What the datapath functions do, said once: each function of Machine/Operands.lean in terms of `BitVec`. -/

namespace Sys2Proof.Machine

theorem pow_natCast (w : Nat) : ((2 ^ w : Nat) : Int) = 2 ^ w := by norm_cast

/-- `norm` is the residue modulo `2^w` (R71). -/
theorem normTo_cast_eq (v : Int) (w : Nat) : (normTo v w : Int) = v % ((2 ^ w : Nat) : Int) := by
  have h : (0 : Int) < ((2 ^ w : Nat) : Int) := by positivity
  rw [normTo, Int.fmod_eq_emod_of_nonneg _ h.le, Int.toNat_of_nonneg (Int.emod_nonneg _ h.ne')]

theorem normTo_lt (v : Int) (w : Nat) : normTo v w < 2 ^ w := by
  have h : (0 : Int) < ((2 ^ w : Nat) : Int) := by positivity
  have := Int.emod_lt_of_pos v h
  rw [← normTo_cast_eq] at this
  exact_mod_cast this

@[simp] theorem normTo_natCast (n w : Nat) : normTo (n : Int) w = n % 2 ^ w := by
  have := normTo_cast_eq (n : Int) w
  exact_mod_cast this

/-- The pattern of an integer is the pattern of the `w`-bit vector it wraps to. -/
theorem normTo_eq_ofInt (v : Int) (w : Nat) : normTo v w = (BitVec.ofInt w v).toNat := by
  have h : (0 : Int) < ((2 ^ w : Nat) : Int) := by positivity
  rw [BitVec.toNat_ofInt, normTo, Int.fmod_eq_emod_of_nonneg _ h.le]

theorem valueOperand_eq (x : Word) (w : Nat) : valueOperand x w = (x.setWidth w).toNat := by
  simp [valueOperand]

theorem valueOperand_lt (x : Word) (w : Nat) : valueOperand x w < 2 ^ w := normTo_lt _ _

/-- The modulus is twice the sign bit's weight (R70). -/
theorem two_pow_eq (w : Nat) (hw : 0 < w) : 2 ^ w = 2 * msbMask w := by
  rw [msbMask, ← pow_succ', Nat.sub_add_cancel hw]

/-- For a pattern, the sign test of R72 compares with `2^(w-1)`. -/
theorem and_msbMask_ne_zero (p w : Nat) (hw : 0 < w) (hp : p < 2 ^ w) :
    p &&& msbMask w ≠ 0 ↔ 2 ^ (w - 1) ≤ p := by
  have hpow : 2 ^ w = 2 * 2 ^ (w - 1) := two_pow_eq w hw
  rw [msbMask, Nat.and_two_pow]
  rcases Nat.lt_or_ge p (2 ^ (w - 1)) with h | h
  · simp [Nat.testBit_lt_two_pow h, h]
  · have : p.testBit (w - 1) = true := by
      rw [Nat.testBit_eq_decide_div_mod_eq, decide_eq_true_eq]
      have hd : p / 2 ^ (w - 1) = 1 := by
        apply Nat.div_eq_of_lt_le <;> omega
      rw [hd]
    simp [this, h]

/-- `to_signed` of a pattern is the two's-complement reading of the `w`-bit vector (R72). -/
theorem toSigned_eq (x : BitVec w) (hw : 0 < w) : toSigned x.toNat w = x.toInt := by
  have hpow : 2 ^ w = 2 * 2 ^ (w - 1) := two_pow_eq w hw
  have h := and_msbMask_ne_zero x.toNat w hw x.isLt
  rw [toSigned, BitVec.toInt_eq_toNat_cond]
  split <;> split <;> first | rfl | omega

theorem signedOperand_eq (x : Word) (w : Nat) (hw : 0 < w) : signedOperand x w = (x.setWidth w).toInt := by
  rw [signedOperand, valueOperand_eq, toSigned_eq _ hw]

theorem toSigned_port (x : Word) : toSigned x.toNat 32 = x.toInt := toSigned_eq x (by omega)

/-- The wrap does not change the pattern: it is congruent to its argument modulo `2^w` (R74, R75). -/
theorem normTo_wrapSigned (t : Int) (w : Nat) (hw : 0 < w) : normTo (wrapSigned t w) w = normTo t w := by
  have hpow : ((2 ^ w : Nat) : Int) = 2 * (msbMask w : Int) := by
    rw [two_pow_eq w hw]; push_cast; ring
  have h : (0 : Int) < ((2 ^ w : Nat) : Int) := by positivity
  have e : wrapSigned t w = t - ((2 ^ w : Nat) : Int) * ((t + (msbMask w : Int)) / ((2 ^ w : Nat) : Int)) := by
    have e1 : t + maxSigned w + 1 = t + (msbMask w : Int) := by simp only [maxSigned]; ring
    have e2 : 2 * (maxSigned w + 1) = ((2 ^ w : Nat) : Int) := by rw [hpow]; simp only [maxSigned]; ring
    rw [wrapSigned, e1, e2, Int.fmod_eq_emod_of_nonneg _ h.le, Int.emod_def]
    simp only [maxSigned]; ring
  have : (normTo (wrapSigned t w) w : Int) = (normTo t w : Int) := by
    rw [normTo_cast_eq, normTo_cast_eq, e, Int.sub_mul_emod_self_left]
  exact_mod_cast this

/-- `present` extends the `w`-bit vector of a pattern to the port (R76). -/
theorem present_unsigned (x : BitVec w) : present x.toNat .unsigned w = x.setWidth 32 := by
  apply BitVec.eq_of_toNat_eq
  simp [present]

theorem present_signed (x : BitVec w) (hw' : w ≤ 32) :
    present x.toNat .signed w = x.signExtend 32 := by
  have hle : 2 ^ w ≤ 2 ^ 32 := Nat.pow_le_pow_right (by omega) hw'
  have hx := x.isLt
  have hmsb : x.toNat.testBit (w - 1) = x.msb := by
    rw [BitVec.msb_eq_getLsbD_last]; rfl
  apply BitVec.eq_of_toNat_eq
  rw [BitVec.toNat_signExtend, present]
  simp only [hmsb]
  rcases x.msb with _ | _
  · simp
  · simp only [if_true, BitVec.toNat_ofNat, BitVec.toNat_setWidth]
    rw [Nat.mod_eq_of_lt (by omega), Nat.mod_eq_of_lt (by omega)]; omega

/-- The legal widths of this hardware (30_encoding R53). -/
theorem bitWidth_t64 (width : WidthField) :
    bitWidth Config.t64 width =
      if width.toNat = 8 ∨ width.toNat = 16 ∨ width.toNat = 32 then .ok width.toNat
      else .error (.invalidArgument .bitWidth) := by
  simp [bitWidth, widthIsLegal, Config.t64, or_assoc]

/-- The width check of the machine is the well-formedness of the instruction (R58). -/
theorem widthIsLegal_eq_wellFormed (cfg : Config) (i : Instr) :
    widthIsLegal cfg i.width = i.wellFormedUnder cfg := by
  rw [Bool.eq_iff_iff]
  cases h : cfg.hasW32 <;>
    simp [widthIsLegal, Instr.wellFormedUnder, Config.widths, h, or_assoc]

/-- A shift amount is B read as a two's-complement number, when that is not negative (R120). -/
theorem shiftAmount_eq (b : Word) :
    shiftAmount b = if b.toInt < 0 then .error (.invalidArgument .negativeShift) else .ok b.toNat := by
  rw [shiftAmount, toSigned_port]
  split
  · rfl
  · rename_i h
    have : b.toInt.toNat = b.toNat := by
      have h2 := BitVec.toInt_eq_toNat_cond b
      have hlt := b.isLt
      split at h2 <;> omega
    rw [this]

end Sys2Proof.Machine
end

