-- ==== Sys2Proof/Laws/Flags.lean ====
section
/-! SUPPORT. What the range checks do, said once: the pattern is always that of the true result, and each flag is one
comparison with the end of the range. -/

namespace Sys2Proof.Machine

theorem checkUnsigned_spec (t : Int) (w : Nat) :
    checkUnsigned t w =
      { pattern := normTo t w, ovf := decide (((2 ^ w : Nat) : Int) ≤ t), unf := decide (t < 0) } := by
  have hpos : 0 < 2 ^ w := by positivity
  have hmax : maxUnsigned w = ((2 ^ w : Nat) : Int) - 1 := by
    rw [maxUnsigned, mask, Nat.cast_sub hpos]; simp
  have hnorm : 0 ≤ t → t < ((2 ^ w : Nat) : Int) → t.toNat = normTo t w := by
    intro h0 h1
    have := normTo_cast_eq t w
    rw [Int.emod_eq_of_lt h0 h1] at this
    omega
  rw [checkUnsigned, hmax]
  split
  · congr 1 <;> simp only [Bool.false_eq, Bool.true_eq, decide_eq_true_eq, decide_eq_false_iff_not] <;> omega
  · split
    · congr 1; simp only [Bool.false_eq, decide_eq_false_iff_not]; omega
      simp only [Bool.true_eq, decide_eq_true_eq]; assumption
    · rw [hnorm (by omega) (by omega)]
      congr 1 <;> simp only [Bool.false_eq, decide_eq_false_iff_not] <;> omega

theorem checkSigned_spec (t : Int) (w : Nat) (hw : 0 < w) :
    checkSigned t w =
      { pattern := normTo t w, ovf := decide (t > maxSigned w), unf := decide (t < minSigned w) } := by
  have hpos : 0 < msbMask w := by rw [msbMask]; positivity
  have hle : minSigned w ≤ maxSigned w := by simp only [minSigned, maxSigned]; omega
  rw [checkSigned]
  split
  · rw [toPattern, normTo_wrapSigned t w hw]
    congr 1 <;> simp only [Bool.false_eq, Bool.true_eq, decide_eq_true_eq, decide_eq_false_iff_not] <;> omega
  · split
    · rw [toPattern, normTo_wrapSigned t w hw]
      congr 1 <;> simp only [Bool.false_eq, Bool.true_eq, decide_eq_true_eq, decide_eq_false_iff_not] <;> omega
    · rw [toPattern]
      congr 1 <;> simp only [Bool.false_eq, decide_eq_false_iff_not] <;> omega

end Sys2Proof.Machine
end

