-- ==== Sys2Proof/Laws/State.lean ====
section
/-! SUPPORT. One lemma for each field and each update of the state, so that no later proof unfolds an update. -/

namespace Sys2Proof.Machine

@[simp] theorem driveOutputs_inp (o : Outputs) (s : State) : (driveOutputs o s).inp = s.inp := rfl
@[simp] theorem driveOutputs_out (o : Outputs) (s : State) : (driveOutputs o s).out = o := rfl
@[simp] theorem driveOutputs_inputsDefined (o : Outputs) (s : State) :
    (driveOutputs o s).inputsDefined = s.inputsDefined := rfl
@[simp] theorem driveOutputs_freeCount (o : Outputs) (s : State) : (driveOutputs o s).freeCount = s.freeCount := rfl
@[simp] theorem driveOutputs_driveOutputs (o p : Outputs) (s : State) :
    driveOutputs o (driveOutputs p s) = driveOutputs o s := rfl

@[simp] theorem driveInputs_cmd (c : CmdWord) (a b : Word) (s : State) : (s.driveInputs c a b).inp.cmd = c := rfl
@[simp] theorem driveInputs_a (c : CmdWord) (a b : Word) (s : State) : (s.driveInputs c a b).inp.a = a := rfl
@[simp] theorem driveInputs_b (c : CmdWord) (a b : Word) (s : State) : (s.driveInputs c a b).inp.b = b := rfl
@[simp] theorem driveInputs_out (c : CmdWord) (a b : Word) (s : State) : (s.driveInputs c a b).out = s.out := rfl
@[simp] theorem driveInputs_inputsDefined (c : CmdWord) (a b : Word) (s : State) :
    (s.driveInputs c a b).inputsDefined = true := rfl
@[simp] theorem driveInputs_freeCount (c : CmdWord) (a b : Word) (s : State) :
    (s.driveInputs c a b).freeCount = s.freeCount := rfl

@[simp] theorem releaseInputs_inp (s : State) : s.releaseInputs.inp = s.inp := rfl
@[simp] theorem releaseInputs_out (s : State) : s.releaseInputs.out = s.out := rfl
@[simp] theorem releaseInputs_inputsDefined (s : State) : s.releaseInputs.inputsDefined = false := rfl
@[simp] theorem releaseInputs_freeCount (s : State) : s.releaseInputs.freeCount = s.freeCount := rfl

@[simp] theorem resultOutputs_r (x : Result) : (resultOutputs x).r = x.r := rfl
@[simp] theorem resultOutputs_rem (x : Result) : (resultOutputs x).rem = x.rem := rfl
@[simp] theorem resultOutputs_ovf (x : Result) : (resultOutputs x).ovf = x.ovf := rfl
@[simp] theorem resultOutputs_unf (x : Result) : (resultOutputs x).unf = x.unf := rfl
@[simp] theorem resultOutputs_dbz (x : Result) : (resultOutputs x).dbz = x.dbz := rfl
@[simp] theorem resultOutputs_err (x : Result) : (resultOutputs x).err = false := rfl

@[simp] theorem outputsOf_ok (x : Result) : outputsOf (.ok x) = resultOutputs x := rfl
@[simp] theorem outputsOf_error (f : Fault) : outputsOf (.error f) = errorOutputs := rfl
@[simp] theorem errorOutputs_err : errorOutputs.err = true := rfl

/-- The 16-bit word that `withFetchWord` puts on the CMD port. -/
theorem withFetchWord_sixteen (s : State) (w : Nat) :
    s.withFetchWord 16 w =
      { s with inp := { s.inp with cmd := BitVec.ofNat 16 (w % 2 ^ 16) }, inputsDefined := true } := rfl

end Sys2Proof.Machine
end

