-- ==== Sys2Proof/Laws/Ops.lean ====
section
/-! SUPPORT. What each shared operation can do, said once. -/

namespace Sys2Proof.Machine

/-- An answer is always a next state, in which only the outputs have changed. -/
theorem answer_eq (e : Evaluation) (s : State) : answer e s = .next { s with out := outputsOf e } := rfl

theorem answer_next_iff (e : Evaluation) (s t : State) : answer e s = .next t ↔ t = driveOutputs (outputsOf e) s :=
  ⟨fun h => (Host.Outcome.next.inj h).symm, fun h => congrArg _ h.symm⟩

/-- Taking the exception is a next state whose outputs are the error outcome (R133, R138). -/
theorem takeInvalidArgument_eq (c : InvalidCause) (s : State) :
    takeInvalidArgument c s = .next { s with out := errorOutputs } := rfl

/-- The width check passes the width on, or raises `bit_width` (30_encoding R53). -/
theorem atWidth_of_legal (cfg : Config) (width : WidthField) (u : Nat → Evaluation)
    (h : widthIsLegal cfg width = true) : atWidth cfg width u = u width.toNat := by
  simp [atWidth, bitWidth, h]

theorem atWidth_of_illegal (cfg : Config) (width : WidthField) (u : Nat → Evaluation)
    (h : widthIsLegal cfg width = false) : atWidth cfg width u = raiseInvalidArgument .bitWidth := by
  simp [atWidth, bitWidth, h, raiseInvalidArgument]

/-- The widths this hardware has (00_scope R8, R9). -/
theorem widthIsLegal_t64 (width : WidthField) :
    widthIsLegal Config.t64 width = true ↔ width.toNat = 8 ∨ width.toNat = 16 ∨ width.toNat = 32 := by
  simp [widthIsLegal, Config.t64, or_assoc]

/-- The amount check passes the amount on, or raises `negative_shift` (45_shifter R120). -/
theorem withAmount_eq (b : Word) (u : Nat → Evaluation) :
    withAmount b u = if b.toInt < 0 then raiseInvalidArgument .negativeShift else u b.toNat := by
  rw [withAmount, shiftAmount_eq]
  by_cases h : b.toInt < 0 <;> simp [h, raiseInvalidArgument]

/-- The result of an unsigned operation with true result `t` (41_adder R85, R86; 42_multiplier R95). -/
theorem rangedResult_unsigned (t : Int) (w : Nat) :
    rangedResult (checkUnsigned t w) .unsigned w =
      .ok { r := (BitVec.ofInt w t).setWidth 32, rem := 0, ovf := decide (((2 ^ w : Nat) : Int) ≤ t),
            unf := decide (t < 0), dbz := false } := by
  rw [rangedResult, checkUnsigned_spec]
  simp only [normTo_eq_ofInt, present_unsigned]

/-- The result of a signed operation with true result `t` (40_sign_converter R77). -/
theorem rangedResult_signed (t : Int) (w : Nat) (hw : 0 < w) (hw' : w ≤ 32) :
    rangedResult (checkSigned t w) .signed w =
      .ok { r := (BitVec.ofInt w t).signExtend 32, rem := 0, ovf := decide (t > maxSigned w),
            unf := decide (t < minSigned w), dbz := false } := by
  rw [rangedResult, checkSigned_spec t w hw]
  simp only [normTo_eq_ofInt, present_signed _ hw']

/-- A step on undefined inputs goes on, holds the inputs and uses one free value (93 U3). -/
theorem driveUnspecified_spec (s : State) :
    ∃ o, driveUnspecified s = .next { s with out := o, freeCount := s.freeCount + 1 } := ⟨_, rfl⟩

end Sys2Proof.Machine
end

