-- ==== Sys2Proof/Laws/Dispatch.lean ====
section
/-! SUPPORT. What `exec` and `step` can do, said once: each drives the outputs with one evaluation. -/

namespace Sys2Proof.Machine

/-- Every arm of `exec` drives the outputs with the evaluation of its instruction on this hardware. -/
theorem exec_eq_answer (i : Instr) (s : State) :
    exec i s = answer (evalInstr Config.t64 i s.inp.a s.inp.b) s := by
  cases i <;> rfl

/-- What a next state of `exec` is. -/
theorem exec_next_iff (i : Instr) (s t : State) :
    exec i s = .next t ↔ t = driveOutputs (outputsOf (evalInstr Config.t64 i s.inp.a s.inp.b)) s := by
  rw [exec_eq_answer, answer_next_iff]

theorem step_of_undefined (s : State) (h : s.inputsDefined = false) : step s = driveUnspecified s := by
  simp [step, h]

theorem step_of_rejected (s : State) (h : s.inputsDefined = true) (e : Rejection)
    (he : decode s.inp.cmd = .error e) : step s = takeInvalidArgument (causeOfRejection e) s := by
  simp [step, h, fetch, he]

end Sys2Proof.Machine
end

