-- ==== Sys2Proof/Laws/Patterns.lean ====
section
/-! SUPPORT. The patterns of the bitwise ALU, the shifter and the divider in terms of `BitVec`: what each unit computes on
unbounded integers is the vector operation of the same name. -/

namespace Sys2Proof.Machine

/-- The last mask of a bitwise result changes nothing (44_bitwise R110 to R112). -/
theorem and_mask_of_lt (p w : Nat) (h : p < 2 ^ w) : p &&& mask w = p := by
  rw [mask, Nat.and_two_pow_sub_one_eq_mod, Nat.mod_eq_of_lt h]

/-- The complement of 00_scope R12, masked, is the complement of the vector (44_bitwise R113). -/
theorem normTo_complement (x : BitVec w) : normTo (-(x.toNat : Int) - 1) w = (~~~x).toNat := by
  have e := normTo_cast_eq (-(x.toNat : Int) - 1) w
  have hx := x.isLt
  have h : (-(x.toNat : Int) - 1) % ((2 ^ w : Nat) : Int) = ((2 ^ w : Nat) : Int) - 1 - x.toNat := by
    rw [show -(x.toNat : Int) - 1 = (((2 ^ w : Nat) : Int) - 1 - x.toNat) - ((2 ^ w : Nat) : Int) by ring,
      Int.sub_emod_right]
    apply Int.emod_eq_of_lt <;> omega
  rw [BitVec.toNat_not]
  rw [h] at e
  omega

/-- A shift left by the effective amount is the vector's shift by the whole amount (45_shifter R120, R121). -/
theorem normTo_shiftLeft (x : BitVec w) (n : Nat) :
    normTo ((x.toNat * 2 ^ effectiveAmount n w : Nat) : Int) w = (x <<< n).toNat := by
  rw [normTo_natCast, BitVec.toNat_shiftLeft, Nat.shiftLeft_eq, effectiveAmount]
  rcases Nat.le_total n w with h | h
  · rw [min_eq_left h]
  · rw [min_eq_right h, Nat.mul_mod_left]
    obtain ⟨k, rfl⟩ := Nat.exists_eq_add_of_le h
    rw [pow_add, ← mul_assoc, mul_comm x.toNat, mul_assoc, Nat.mul_mod_right]

/-- A logical shift right by the effective amount is the vector's shift by the whole amount (45_shifter R122). -/
theorem normTo_shiftRight (x : BitVec w) (n : Nat) :
    normTo (Int.fdiv x.toNat ((2 ^ effectiveAmount n w : Nat) : Int)) w = (x >>> n).toNat := by
  have hx := x.isLt
  rw [Int.fdiv_eq_ediv_of_nonneg _ (by positivity), BitVec.toNat_ushiftRight, Nat.shiftRight_eq_div_pow,
    effectiveAmount, ← Int.natCast_ediv, normTo_natCast,
    Nat.mod_eq_of_lt (lt_of_le_of_lt (Nat.div_le_self _ _) hx)]
  rcases Nat.le_total n w with h | h
  · rw [min_eq_left h]
  · rw [min_eq_right h, Nat.div_eq_of_lt hx,
      Nat.div_eq_of_lt (lt_of_lt_of_le hx (Nat.pow_le_pow_right (by omega) h))]

/-- A floored quotient by a power of two of at least the modulus is the sign alone (45_shifter R123). -/
theorem ediv_large (t : Int) (w m : Nat) (h1 : -((2 ^ w : Nat) : Int) ≤ t) (h2 : t < ((2 ^ w : Nat) : Int))
    (hm : 2 ^ w ≤ m) : t / (m : Int) = if t < 0 then -1 else 0 := by
  have hp : 0 < 2 ^ w := by positivity
  have hm0 : (0 : Int) < (m : Int) := by omega
  split
  · have q1 : -1 ≤ t / (m : Int) := by rw [Int.le_ediv_iff_mul_le hm0]; omega
    have q2 : t / (m : Int) < 0 := Int.ediv_neg_of_neg_of_pos ‹_› hm0
    omega
  · exact Int.ediv_eq_zero_of_lt (by omega) (by omega)

/-- An arithmetic shift right by the effective amount is the vector's shift by the whole amount (45_shifter R123). -/
theorem normTo_arithmeticShiftRight (x : BitVec w) (n : Nat) :
    normTo (Int.fdiv x.toInt ((2 ^ effectiveAmount n w : Nat) : Int)) w = (x.sshiftRight n).toNat := by
  have h1 := BitVec.le_toInt x
  have h2 := @BitVec.toInt_lt _ x
  have hle : (2 : Int) ^ (w - 1) ≤ ((2 ^ w : Nat) : Int) := by
    exact_mod_cast Nat.pow_le_pow_right (by omega) (Nat.sub_le w 1)
  have key : x.toInt / ((2 ^ min n w : Nat) : Int) = x.toInt / ((2 ^ n : Nat) : Int) := by
    rcases Nat.le_total n w with h | h
    · rw [min_eq_left h]
    · rw [min_eq_right h, ediv_large _ w _ (by omega) (by omega) le_rfl,
        ediv_large _ w _ (by omega) (by omega) (Nat.pow_le_pow_right (by omega) h)]
  rw [Int.fdiv_eq_ediv_of_nonneg _ (by positivity), normTo_eq_ofInt]
  congr 1
  apply BitVec.eq_of_toInt_eq
  rw [effectiveAmount, key, BitVec.toInt_ofInt, ← Int.shiftRight_eq_div_pow, ← BitVec.toInt_sshiftRight,
    BitVec.toInt_bmod_cancel]

/-- The floored remainder of two signed readings is the vector's `smod` (00_scope R11; 43_divider R101). -/
theorem smod_eq_ofInt_fmod (x y : BitVec w) : x.smod y = BitVec.ofInt w (Int.fmod x.toInt y.toInt) := by
  rw [← BitVec.toInt_smod, BitVec.ofInt_toInt]

/-- The sign bit of a port is the sign of its two's-complement reading (45_shifter R120). -/
theorem toInt_neg_iff (b : Word) : b.toInt < 0 ↔ b.getLsbD 31 = true := by
  rw [← BitVec.msb_eq_getLsbD_last, BitVec.msb_eq_toInt, decide_eq_true_eq]

end Sys2Proof.Machine
end

