-- ==== Sys2Proof/Laws/Eval.lean ====
section
/-! SUPPORT. When the evaluation of a decoded instruction has a result, said once for all fifteen rows. -/

namespace Sys2Proof.Machine

/-- An illegal WIDTH raises `bit_width` in every row (30_encoding R53). -/
theorem evalInstr_of_illegal (cfg : Config) (i : Instr) (a b : Word) (h : widthIsLegal cfg i.width = false) :
    evalInstr cfg i a b = .error (.invalidArgument .bitWidth) := by
  cases i <;> exact atWidth_of_illegal _ _ _ h

/-- A negative amount raises `negative_shift` in the three shifts (45_shifter R120). -/
theorem evalInstr_of_negative (cfg : Config) (i : Instr) (a b : Word) (h : widthIsLegal cfg i.width = true)
    (hs : i.isShift = true) (hb : b.getLsbD 31 = true) :
    evalInstr cfg i a b = .error (.invalidArgument .negativeShift) := by
  cases i <;> simp only [Instr.isShift] at hs <;>
    first
    | (cases hs; done)
    | exact (atWidth_of_legal _ _ _ h).trans (by rw [withAmount_eq, if_pos ((toInt_neg_iff b).mpr hb)]; rfl)

/-- A row at a legal WIDTH has a result, if no negative amount stands on B (30_encoding R55). -/
theorem evalInstr_has_result (cfg : Config) (i : Instr) (a b : Word) (h : widthIsLegal cfg i.width = true)
    (hb : i.isShift = true → b.getLsbD 31 = false) : ∃ x, evalInstr cfg i a b = .ok x := by
  have shifted (u : Nat → Evaluation) (hu : ∀ n, ∃ x, u n = .ok x) (hb : b.getLsbD 31 = false) :
      ∃ x, withAmount b u = .ok x := by
    rw [withAmount_eq, if_neg (by rw [toInt_neg_iff, hb]; simp)]
    exact hu _
  cases i with
  | addU | addS | subU | subS | mulU | mulS | and | or | xor | not => exact ⟨_, atWidth_of_legal _ _ _ h⟩
  | divU w =>
    simp only [Instr.width] at h
    simp only [evalInstr, evalDivU, atWidth_of_legal _ _ _ h]
    split <;> exact ⟨_, rfl⟩
  | divS w =>
    simp only [Instr.width] at h
    simp only [evalInstr, evalDivS, atWidth_of_legal _ _ _ h]
    split <;> exact ⟨_, rfl⟩
  | shl sg w =>
    simp only [Instr.width] at h
    simp only [evalInstr, evalShl, atWidth_of_legal _ _ _ h]
    exact shifted _ (fun _ => ⟨_, rfl⟩) (hb rfl)
  | shr sg w =>
    simp only [Instr.width] at h
    simp only [evalInstr, evalShr, atWidth_of_legal _ _ _ h]
    exact shifted _ (fun _ => ⟨_, rfl⟩) (hb rfl)
  | sar sg w =>
    simp only [Instr.width] at h
    simp only [evalInstr, evalSar, atWidth_of_legal _ _ _ h]
    exact shifted _ (fun _ => ⟨_, rfl⟩) (hb rfl)

end Sys2Proof.Machine
end

