-- ==== Sys2Proof/Laws/PerInstr.lean ====
section
/-! SUPPORT. The family EncodedFields: the fields of an instruction's command word (30_encoding R51), one lemma for each
constructor of Instr. -/

namespace Sys2Proof.Laws.EncodedFields

/-- The word of an instruction has RSV = 0, an OP that is not reserved, and its own WIDTH and S. -/
def Statement (i : Instr) : Prop :=
  rsvField (encode i) = 0 ∧ (opField (encode i)).toNat ≤ 10 ∧
    widthField (encode i) = i.width ∧ sField (encode i) = i.signedness

/-- The fields of `(WIDTH << 5) | (S << 4) | OP` are what they were made from (R51). -/
theorem commandWord_fields (width : WidthField) (sg : Signedness) (op : OpField) :
    rsvField (commandWord width sg (op.setWidth 16)) = 0 ∧ opField (commandWord width sg (op.setWidth 16)) = op ∧
      widthField (commandWord width sg (op.setWidth 16)) = width ∧
      sField (commandWord width sg (op.setWidth 16)) = sg := by
  refine ⟨?_, ?_, ?_, ?_⟩
  · ext i hi
    interval_cases i <;> cases sg <;> simp [rsvField, commandWord, Signedness.bit]
  · ext i hi
    interval_cases i <;> cases sg <;> simp [opField, commandWord, Signedness.bit]
  · ext i hi
    interval_cases i <;> cases sg <;> simp [widthField, commandWord, Signedness.bit]
  · cases sg <;> simp [sField, commandWord, Signedness.bit]

/-- The statement of an instruction from the fields of its word. -/
theorem of_fields {i : Instr} {op : OpField}
    (h : rsvField (encode i) = 0 ∧ opField (encode i) = op ∧ widthField (encode i) = i.width ∧
      sField (encode i) = i.signedness) (hop : op.toNat ≤ 10) : Statement i :=
  ⟨h.1, h.2.1 ▸ hop, h.2.2⟩

theorem addU (width : WidthField) : Statement (.addU width) :=
  of_fields (commandWord_fields width .unsigned 0) (by decide)
theorem addS (width : WidthField) : Statement (.addS width) :=
  of_fields (commandWord_fields width .signed 0) (by decide)
theorem subU (width : WidthField) : Statement (.subU width) :=
  of_fields (commandWord_fields width .unsigned 1) (by decide)
theorem subS (width : WidthField) : Statement (.subS width) :=
  of_fields (commandWord_fields width .signed 1) (by decide)
theorem mulU (width : WidthField) : Statement (.mulU width) :=
  of_fields (commandWord_fields width .unsigned 2) (by decide)
theorem mulS (width : WidthField) : Statement (.mulS width) :=
  of_fields (commandWord_fields width .signed 2) (by decide)
theorem divU (width : WidthField) : Statement (.divU width) :=
  of_fields (commandWord_fields width .unsigned 3) (by decide)
theorem divS (width : WidthField) : Statement (.divS width) :=
  of_fields (commandWord_fields width .signed 3) (by decide)
theorem and (sg : Signedness) (width : WidthField) : Statement (.and sg width) :=
  of_fields (commandWord_fields width sg 4) (by decide)
theorem or (sg : Signedness) (width : WidthField) : Statement (.or sg width) :=
  of_fields (commandWord_fields width sg 5) (by decide)
theorem xor (sg : Signedness) (width : WidthField) : Statement (.xor sg width) :=
  of_fields (commandWord_fields width sg 6) (by decide)
theorem not (sg : Signedness) (width : WidthField) : Statement (.not sg width) :=
  of_fields (commandWord_fields width sg 7) (by decide)
theorem shl (sg : Signedness) (width : WidthField) : Statement (.shl sg width) :=
  of_fields (commandWord_fields width sg 8) (by decide)
theorem shr (sg : Signedness) (width : WidthField) : Statement (.shr sg width) :=
  of_fields (commandWord_fields width sg 9) (by decide)
theorem sar (sg : Signedness) (width : WidthField) : Statement (.sar sg width) :=
  of_fields (commandWord_fields width sg 10) (by decide)

end Sys2Proof.Laws.EncodedFields
end

