-- ==== Sys2Proof/Tests/Slice0.lean ====
section
/-! SUPPORT. Tests. Every expected value is taken from spec/ (30_encoding R60, R64; the vectors of 95_test_vectors.md)
or worked by hand from a rule, never from the model. A `witness_<Name>` shows a concrete input that meets the hypotheses of
`Obligations.<Name>`, clause by clause, at a boundary where there is one. -/

open Sys2Proof Sys2Proof.Machine Sys2Proof.Claims

namespace Sys2Proof.Tests

/-- A state in which the host drives the three inputs. -/
def drive (cmd : CmdWord) (a b : Word) : State := State.reset.driveInputs cmd a b

/-- The outputs after a step, or nothing if the machine stopped. -/
def outs (o : Host.Outcome State Fault Refusal) : Option Outputs :=
  match o with
  | .next t => some t.out
  | .fault _ => none
  | .refused _ => none

/-- One command evaluated by a step. -/
def eval1 (cmd : CmdWord) (a b : Word) : Option Outputs := outs (step (drive cmd a b))

/-- An output tuple with results alone, no flag set. -/
def plain (r rem : Word) : Option Outputs :=
  some { r := r, rem := rem, ovf := false, unf := false, dbz := false, err := false }

/-- An output tuple with OVF set. -/
def overflowed (r : Word) : Option Outputs :=
  some { r := r, rem := 0, ovf := true, unf := false, dbz := false, err := false }

/-- An output tuple with UNF set. -/
def underflowed (r : Word) : Option Outputs :=
  some { r := r, rem := 0, ovf := false, unf := true, dbz := false, err := false }

/-! ## Well-formedness: the one check is the width (30_encoding R53) -/

theorem test_wellFormed_refuses_width_12 : (Instr.and .unsigned 12).wellFormed = false := by decide
theorem test_wellFormed_refuses_widths_beside_the_legal_ones :
    ∀ w ∈ [0, 7, 9, 15, 17, 31, 33, 63], (Instr.addU (BitVec.ofNat 6 w)).wellFormed = false := by decide
theorem test_wellFormed_accepts_the_legal_widths :
    ∀ w ∈ [8, 16, 32], (Instr.addU (BitVec.ofNat 6 w)).wellFormed = true := by decide
theorem test_wellFormed_refuses_32_without_the_option :
    (Instr.addU 32).wellFormedUnder { Config.t64 with hasW32 := false } = false := by decide

/-! ## Decoding: each row's words as 30_encoding R60 prints them -/

theorem test_decode_addU : decode 0x0100 = .ok (.addU 8) ∧ decode 0x0400 = .ok (.addU 32) := by decide
theorem test_decode_addS : decode 0x0110 = .ok (.addS 8) ∧ decode 0x0210 = .ok (.addS 16) := by decide
theorem test_decode_subU : decode 0x0101 = .ok (.subU 8) ∧ decode 0x0401 = .ok (.subU 32) := by decide
theorem test_decode_subS : decode 0x0111 = .ok (.subS 8) ∧ decode 0x0211 = .ok (.subS 16) := by decide
theorem test_decode_mulU : decode 0x0102 = .ok (.mulU 8) ∧ decode 0x0402 = .ok (.mulU 32) := by decide
theorem test_decode_mulS : decode 0x0112 = .ok (.mulS 8) ∧ decode 0x0212 = .ok (.mulS 16) := by decide
theorem test_decode_divU : decode 0x0103 = .ok (.divU 8) ∧ decode 0x0403 = .ok (.divU 32) := by decide
theorem test_decode_divS : decode 0x0113 = .ok (.divS 8) ∧ decode 0x0213 = .ok (.divS 16) := by decide
theorem test_decode_and : decode 0x0204 = .ok (.and .unsigned 16) ∧ decode 0x0414 = .ok (.and .signed 32) := by decide
theorem test_decode_or : decode 0x0205 = .ok (.or .unsigned 16) ∧ decode 0x0415 = .ok (.or .signed 32) := by decide
theorem test_decode_xor : decode 0x0206 = .ok (.xor .unsigned 16) ∧ decode 0x0416 = .ok (.xor .signed 32) := by decide
theorem test_decode_not : decode 0x0207 = .ok (.not .unsigned 16) ∧ decode 0x0417 = .ok (.not .signed 32) := by decide
theorem test_decode_shl : decode 0x0208 = .ok (.shl .unsigned 16) ∧ decode 0x0418 = .ok (.shl .signed 32) := by decide
theorem test_decode_shr : decode 0x0209 = .ok (.shr .unsigned 16) ∧ decode 0x0419 = .ok (.shr .signed 32) := by decide
theorem test_decode_sar : decode 0x020A = .ok (.sar .unsigned 16) ∧ decode 0x041A = .ok (.sar .signed 32) := by decide

/-- R131: OP 0xB and 0xF are reserved; each of the bits 11 to 15 is reserved, and is looked at before OP. -/
theorem test_decode_rejects_by_name :
    decode 0x010B = .error .reservedOpcode ∧ decode 0x010F = .error .reservedOpcode ∧
      decode 0x0900 = .error .reservedBits ∧ decode 0x8100 = .error .reservedBits ∧
      decode 0xFFFF = .error .reservedBits := by decide

/-- R60 and R51: the encoder writes the words of the table. -/
theorem test_encode_words :
    encode (.addU 8) = 0x0100 ∧ encode (.divS 16) = 0x0213 ∧ encode (.sar .signed 32) = 0x041A ∧
      encode (.and .unsigned 12) = 0x0184 := by decide

theorem test_decodeTableWord :
    decodeTableWord 16 0x0213 = some (.divS 16) ∧ decodeTableWord 16 0x010B = none ∧
      decodeTableWord 32 0x0213 = none := by decide

/-- 95 1.1: ADD.U.8 with the operands on the ports, the word placed by `withFetchWord`. -/
theorem test_withFetchWord_runs_the_word :
    outs (step ((drive 0xFFFF 0x0A 5).withFetchWord 16 0x0100)) = plain 0x0F 0 := by decide

/-! ## One step of each row (95_test_vectors.md), with the witness of its statement -/

/-- A width that is none of 8, 16 and 32 is legal for no `w`. -/
theorem illegal_width (width : WidthField) (h : width.toNat ≠ 8 ∧ width.toNat ≠ 16 ∧ width.toNat ≠ 32) :
    ∀ w, ¬ LegalWidth width w := by
  rintro w ⟨rfl, h2⟩
  omega

theorem legal_8 : LegalWidth 8 8 := ⟨by decide, by decide⟩
theorem legal_16 : LegalWidth 16 16 := ⟨by decide, by decide⟩
theorem legal_32 : LegalWidth 32 32 := ⟨by decide, by decide⟩

/-- 95 2.2: wrap to 0, and exactly the maximum. -/
theorem witness_AddUnsignedComputes :
    LegalWidth 8 8 ∧ eval1 0x0100 0xFF 1 = overflowed 0 ∧ eval1 0x0100 0x80 0x7F = plain 0xFF 0 :=
  ⟨legal_8, by decide, by decide⟩

/-- 95 2.2: -128 + -1 falls below the minimum, -100 + -28 reaches it. -/
theorem witness_AddSignedComputes :
    LegalWidth 8 8 ∧ eval1 0x0110 0xFFFFFF80 0xFFFFFFFF = underflowed 0x7F ∧
      eval1 0x0110 0xFFFFFF9C 0xFFFFFFE4 = plain 0xFFFFFF80 0 :=
  ⟨legal_8, by decide, by decide⟩

/-- 95 2.2: the borrow at width 32, and its absence for equal operands. -/
theorem witness_SubUnsignedComputes :
    LegalWidth 32 32 ∧ eval1 0x0401 5 7 = underflowed 0xFFFFFFFE ∧ eval1 0x0401 5 5 = plain 0 0 :=
  ⟨legal_32, by decide, by decide⟩

/-- R88: 0 - -128 overflows back to -128; -128 - 1 underflows to 127. -/
theorem witness_SubSignedComputes :
    LegalWidth 8 8 ∧ eval1 0x0111 0 0xFFFFFF80 = overflowed 0xFFFFFF80 ∧
      eval1 0x0111 0xFFFFFF80 1 = underflowed 0x7F :=
  ⟨legal_8, by decide, by decide⟩

/-- R95: 65535 * 65537 is exactly the maximum of width 32; the largest product wraps to 1. -/
theorem witness_MulUnsignedComputes :
    LegalWidth 32 32 ∧ eval1 0x0402 65535 65537 = plain 0xFFFFFFFF 0 ∧
      eval1 0x0402 0xFFFFFFFF 0xFFFFFFFF = overflowed 1 :=
  ⟨legal_32, by decide, by decide⟩

/-- R96: 127 * 127 overflows to 1; 16 * -9 underflows to 112. -/
theorem witness_MulSignedComputes :
    LegalWidth 8 8 ∧ eval1 0x0112 127 127 = overflowed 1 ∧ eval1 0x0112 16 0xFFFFFFF7 = underflowed 112 :=
  ⟨legal_8, by decide, by decide⟩

/-- R100: 200 / 7; a divisor whose low 8 bits are 0. -/
theorem witness_DivUnsignedComputes :
    LegalWidth 8 8 ∧ eval1 0x0103 200 7 = plain 28 4 ∧ eval1 0x0103 200 256 = some zeroDivideTuple :=
  ⟨legal_8, by decide, by decide⟩

/-- R101: 7 / -2 is -4 remainder -1; -128 / -1 overflows. -/
theorem witness_DivSignedComputes :
    LegalWidth 8 8 ∧ eval1 0x0113 7 0xFFFFFFFE = plain 0xFFFFFFFC 0xFFFFFFFF ∧
      eval1 0x0113 0x80 0xFF = overflowed 0xFFFFFF80 :=
  ⟨legal_8, by decide, by decide⟩

/-- R110: 0xF0 AND 0x3C; 0xF0 AND 0xBC presented signed. -/
theorem witness_AndComputes :
    LegalWidth 8 8 ∧ eval1 0x0104 0xF0 0x3C = plain 0x30 0 ∧ eval1 0x0114 0xF0 0xBC = plain 0xFFFFFFB0 0 :=
  ⟨legal_8, by decide, by decide⟩

/-- R111: a bit above the width; 0x8000 OR 1 presented signed. -/
theorem witness_OrComputes :
    LegalWidth 16 16 ∧ eval1 0x0205 0x10000 0 = plain 0 0 ∧ eval1 0x0215 0x8000 1 = plain 0xFFFF8001 0 :=
  ⟨legal_16, by decide, by decide⟩

/-- R112: 0xFF XOR 0x0F in both presentations. -/
theorem witness_XorComputes :
    LegalWidth 8 8 ∧ eval1 0x0106 0xFF 0x0F = plain 0xF0 0 ∧ eval1 0x0116 0xFF 0x0F = plain 0xFFFFFFF0 0 :=
  ⟨legal_8, by decide, by decide⟩

/-- R113: NOT of 0x105 at width 8, with B ignored; NOT.S.32 5. -/
theorem witness_NotComputes :
    LegalWidth 8 8 ∧ eval1 0x0107 0x105 0xDEADBEEF = plain 0xFA 0 ∧ eval1 0x0417 5 0 = plain 0xFFFFFFFA 0 :=
  ⟨legal_8, by decide, by decide⟩

/-- R121: shifts by `w - 1`, by `w`, and by -1. -/
theorem witness_ShlComputes :
    LegalWidth 8 8 ∧ (drive 0x0108 0xFF 8).inp.b.getLsbD 31 = false ∧ eval1 0x0108 0xFF 8 = plain 0 0 ∧
      eval1 0x0118 1 7 = plain 0xFFFFFF80 0 ∧ eval1 0x0108 5 0xFFFFFFFF = some errorTuple :=
  ⟨legal_8, by decide, by decide, by decide, by decide⟩

/-- R122: the source's example, the amount 0 presented signed, and the least negative amount's word. -/
theorem witness_ShrComputes :
    LegalWidth 8 8 ∧ (drive 0x0109 0xF6 1).inp.b.getLsbD 31 = false ∧ eval1 0x0109 0xF6 1 = plain 0x7B 0 ∧
      eval1 0x0119 0xF6 0 = plain 0xFFFFFFF6 0 ∧ eval1 0x0109 1 0x80000000 = some errorTuple :=
  ⟨legal_8, by decide, by decide, by decide, by decide⟩

/-- R123: the source's example; the largest amount; SAR.U (R124). -/
theorem witness_SarComputes :
    LegalWidth 8 8 ∧ (drive 0x011A 0xF6 0x7FFFFFFF).inp.b.getLsbD 31 = false ∧
      eval1 0x011A 0xF6 0x7FFFFFFF = plain 0xFFFFFFFF 0 ∧ eval1 0x011A 0xF6 1 = plain 0xFFFFFFFB 0 ∧
      eval1 0x010A 0xF6 1 = plain 0xFB 0 := ⟨legal_8, by decide, by decide, by decide, by decide⟩

/-! ## Witnesses of the other statements -/

/-- The source's illegal width (R64), and the widths at the ends of the field. -/
theorem witness_IllegalWidthTakesTheException :
    (∀ w, ¬ LegalWidth (Instr.and .unsigned 12).width w) ∧ (∀ w, ¬ LegalWidth (Instr.addU 0).width w) ∧
      (∀ w, ¬ LegalWidth (Instr.addU 63).width w) ∧ eval1 0x0184 1 2 = some errorTuple :=
  ⟨illegal_width _ (by decide), illegal_width _ (by decide), illegal_width _ (by decide), by decide⟩

/-- The least and the greatest negative amount. -/
theorem witness_NegativeAmountTakesTheException :
    (Instr.shl .unsigned 8).isShift = true ∧ LegalWidth (Instr.shl .unsigned 8).width 8 ∧
      (drive 0x0108 5 0x80000000).inp.b.getLsbD 31 = true ∧ (drive 0x0108 5 0xFFFFFFFF).inp.b.getLsbD 31 = true :=
  ⟨rfl, legal_8, by decide, by decide⟩

theorem witness_EncodeOfDecodeIsTheWord : decode 0x041A = .ok (.sar .signed 32) := by decide

/-- A legal word, the same word without HAS_W32, and an operand that is no negative amount. -/
theorem witness_LegalCommandsAreSixtySix :
    (0x0400 : CmdWord) ∈ legalWords Config.t64 ∧ (0x7FFFFFFF : Word).getLsbD 31 = false ∧
      (0x0400 : CmdWord) ∉ legalWords { Config.t64 with hasW32 := false } := by decide

theorem witness_StepRunsDecodedInstruction :
    (drive 0x0213 1 2).inputsDefined = true ∧ decode (drive 0x0213 1 2).inp.cmd = .ok (.divS 16) := by decide

theorem witness_StepIsTheEvaluation : State.reset.inputsDefined = true := rfl

/-- Both commands of a pair run, in either order. -/
theorem witness_OutputsDependOnInputsAlone :
    (∃ t, step (State.reset.driveInputs 0x0100 1 2) = .next t ∧ ∃ u, step (t.driveInputs 0x010B 0 0) = .next u) ∧
      ∃ t, step (State.reset.driveInputs 0x010B 0 0) = .next t ∧ ∃ u, step (t.driveInputs 0x0100 1 2) = .next u :=
  ⟨⟨_, rfl, _, rfl⟩, _, rfl, _, rfl⟩

/-- Each of the four conditions, and a command under none of them. -/
theorem witness_ErrExactlyOnInvalidArgument :
    HasReservedBits 0x0900 ∧ HasReservedOpcode 0x010B ∧ HasIllegalWidth 0x0184 ∧
      HasNegativeShift 0x0108 0x80000000 ∧ eval1 0x0100 1 2 = plain 3 0 := by
  unfold HasReservedBits HasReservedOpcode HasIllegalWidth HasNegativeShift
  decide

/-- Each clause of the order of validation, and the last. -/
theorem witness_CausesFollowTheOrderOfValidation :
    HasReservedBits 0xF80F ∧ (¬ HasReservedBits 0x018B ∧ HasReservedOpcode 0x018B) ∧
      (¬ HasReservedBits 0x0188 ∧ ¬ HasReservedOpcode 0x0188 ∧ HasIllegalWidth 0x0188) ∧
      (¬ HasReservedBits 0x010A ∧ ¬ HasReservedOpcode 0x010A ∧ ¬ HasIllegalWidth 0x010A ∧
        HasNegativeShift 0x010A 0xFFFFFFFF) ∧
      (¬ HasReservedBits 0x0107 ∧ ¬ HasReservedOpcode 0x0107 ∧ ¬ HasIllegalWidth 0x0107 ∧
        ¬ HasNegativeShift 0x0107 0xFFFFFFFF) := by
  unfold HasReservedBits HasReservedOpcode HasIllegalWidth HasNegativeShift
  decide

theorem witness_StepIsIdempotent :
    State.reset.inputsDefined = true ∧ step State.reset = .next State.reset := ⟨rfl, rfl⟩

/-- Both ends of the literals, an `InvalidArgument` between two commands. -/
theorem witness_SequencesHaveNoMemory :
    ∀ c ∈ [((0x0100 : CmdWord), (-(2 ^ 31) : Int), (2 ^ 32 - 1 : Int)), (0x010B, 0, 0), (0x0101, 0, 1)],
      FitsPort c.2.1 ∧ FitsPort c.2.2 := by
  unfold FitsPort
  decide

theorem witness_UndefinedInputsStillStep : State.reset.releaseInputs.inputsDefined = false := rfl

/-- The state right after reset fits, and a step follows from it. -/
theorem witness_StepKeepsOutputsFit : State.reset.Fit ∧ ∃ t, step State.reset = .next t :=
  ⟨fun _ => ⟨by decide, fun _ => rfl, fun h => by cases h⟩, ⟨_, rfl⟩⟩

/-- -100 + -28 reaches the minimum of the range; the step completes with ERR = 0. -/
theorem witness_ResultsLieInRange :
    ∃ t, exec (.addS 8) (drive 0x0110 0xFFFFFF9C 0xFFFFFFE4) = .next t ∧ t.out.err = false := ⟨_, rfl, by decide⟩

/-- A command with a flag, and one that raised. -/
theorem witness_FlagsFollowTheTable :
    (∃ t, exec (.addU 8) (drive 0x0100 0xFF 1) = .next t ∧ t.out.ovf = true) ∧
      ∃ t, exec (.divU 12) (drive 0x0183 1 0) = .next t ∧ t.out.err = true := ⟨⟨_, rfl, by decide⟩, _, rfl, by decide⟩

/-- A value operand with other bits above the width, and a shift amount that is the same word. -/
theorem witness_OperandsAreNormalised :
    ((0x1FF : Word).toNat % 2 ^ (Instr.addU 8).width.toNat = (0xFF : Word).toNat % 2 ^ (Instr.addU 8).width.toNat ∧
      (Instr.addU 8).isShift = false) ∧ (Instr.shl .unsigned 8).isShift = true := by decide

theorem witness_PortsLoseNothing : (32 : Nat) = 8 ∨ (32 : Nat) = 16 ∨ (32 : Nat) = 32 := by decide

theorem witness_PresentedPortReadsBack :
    ((8 : Nat) = 8 ∨ (8 : Nat) = 16 ∨ (8 : Nat) = 32) ∧ 0xFF < 2 ^ 8 := by decide

theorem witness_PresentDrivesThePort :
    ((8 : Nat) = 8 ∨ (8 : Nat) = 16 ∨ (8 : Nat) = 32) ∧ 0x80 < 2 ^ 8 ∧ present 0x80 .signed 8 = 0xFFFFFF80 := by decide

/-- Both ends of the signed range of width 8, and its greatest pattern. -/
theorem witness_SignConversionInverts :
    ((8 : Nat) = 8 ∨ (8 : Nat) = 16 ∨ (8 : Nat) = 32) ∧
      (-(2 ^ (8 - 1)) ≤ (-128 : Int) ∧ (-128 : Int) ≤ 2 ^ (8 - 1) - 1) ∧
      (-(2 ^ (8 - 1)) ≤ (127 : Int) ∧ (127 : Int) ≤ 2 ^ (8 - 1) - 1) ∧ 255 ≤ 2 ^ 8 - 1 := by decide

/-- 95 2.1: a true result just above and just below the range of width 8. -/
theorem witness_WrapIsMaskAndReread : 0 < 8 ∧ wrapSigned 128 8 = -128 ∧ wrapSigned (-129) 8 = 127 := by decide

/-- The ends of the range of width 8, which the wrap leaves as they are. -/
theorem witness_WrapLandsInRange :
    0 < 8 ∧ (-(2 ^ (8 - 1)) ≤ (-128 : Int) ∧ (-128 : Int) ≤ 2 ^ (8 - 1) - 1) ∧ wrapSigned (-128) 8 = -128 ∧
      wrapSigned 127 8 = 127 := by decide

theorem witness_AdderFlagsAreCarries : LegalWidth 8 8 ∧ LegalWidth 16 16 ∧ LegalWidth 32 32 :=
  ⟨legal_8, legal_16, legal_32⟩

/-- -128 * -128: the two exact products of 16 bits. -/
theorem witness_MultiplierFlagsFromExactProducts :
    LegalWidth 8 8 ∧
      (0x4000 : BitVec (2 * 8)) =
        ((drive 0x0112 0x80 0x80).inp.a.setWidth 8).setWidth (2 * 8) *
          ((drive 0x0112 0x80 0x80).inp.b.setWidth 8).setWidth (2 * 8) ∧
      (0x4000 : BitVec (2 * 8)) =
        ((drive 0x0112 0x80 0x80).inp.a.setWidth 8).signExtend (2 * 8) *
          ((drive 0x0112 0x80 0x80).inp.b.setWidth 8).signExtend (2 * 8) :=
  ⟨legal_8, by decide, by decide⟩

/-- A divisor of each sign, with and without the overflow. -/
theorem witness_DivisionIdentitiesHold :
    LegalWidth 8 8 ∧ (drive 0x0113 0x80 0xFF).inp.b.setWidth 8 ≠ 0 ∧ eval1 0x0113 0x80 0xFF = overflowed 0xFFFFFF80 ∧
      (0 < signedOperand 2 8 ∧ eval1 0x0113 0xF9 2 = plain 0xFFFFFFFC 1) ∧
      (signedOperand 0xFE 8 < 0 ∧ eval1 0x0113 0xF9 0xFE = plain 3 0xFFFFFFFF) :=
  ⟨legal_8, by decide, by decide, by decide, by decide⟩

theorem witness_DbzExactlyOnZeroDivisor :
    outs (exec (.divS 8) (drive 0x0113 5 256)) = some zeroDivideTuple ∧ (Instr.divS 8).isDiv = true ∧
      (Instr.divS 8).wellFormed = true ∧ (256 : Word).toNat % 2 ^ (Instr.divS 8).width.toNat = 0 := by decide

theorem witness_RoundingMattersOnOppositeSigns :
    LegalWidth 8 8 ∧ widthIsLegal Config.t64 8 = true ∧ (2 : Word).setWidth 8 ≠ 0 ∧
      ¬ (signedOperand 2 8 ∣ signedOperand 0xF9 8) ∧ (signedOperand 0xF9 8 < 0 ↔ 0 < signedOperand 2 8) :=
  ⟨legal_8, by decide, by decide, by decide, by decide⟩

theorem witness_NotIsAnInvolution : LegalWidth 16 16 ∧ eval1 0x0207 0xFFFA 0 = plain 5 0 := ⟨legal_16, by decide⟩

/-- The zero operand, and the mask. -/
theorem witness_IdentityCommandsPresentA :
    LegalWidth 8 8 ∧ (drive 0x0105 0xF6 0).inp.b = 0 ∧ (drive 0x0104 0xF6 0xFF).inp.b.toNat = mask 8 :=
  ⟨legal_8, rfl, by decide⟩

theorem witness_SconvIsTheSignConverter : LegalWidth 16 16 ∧ FitsPort 0x8000 :=
  ⟨legal_16, by unfold FitsPort; decide⟩

/-- The minimum, whose negation overflows, and a value whose negation does not. -/
theorem witness_NegationTwoWays :
    LegalWidth 8 8 ∧ FitsPort (-128) ∧ toSigned (normTo (-128) 8) 8 = minSigned 8 ∧ FitsPort 5 :=
  ⟨legal_8, by unfold FitsPort; decide, by decide, by unfold FitsPort; decide⟩

/-- The largest amount, with the sign bit clear and with it set. -/
theorem witness_RightShiftsDiverge :
    LegalWidth 8 8 ∧ (drive 0x0109 0xF6 0x7FFFFFFF).inp.b.getLsbD 31 = false ∧
      (drive 0x0109 0xF6 0x7FFFFFFF).inp.b ≠ 0 ∧ (drive 0x0109 0xF6 1).inp.a.getLsbD (8 - 1) = true ∧
      (drive 0x0109 0x76 1).inp.a.getLsbD (8 - 1) = false :=
  ⟨legal_8, by decide, by decide, by decide, by decide⟩

/-- 45_shifter R122: SHR.S and SHR.U of 0xF6 by 0 differ. -/
theorem witness_OpcodeAloneSelectsTheShift :
    LegalWidth 8 8 ∧ (drive 0x0109 0xF6 0).inp.b.getLsbD 31 = false ∧
      outs (exec (.shr .signed 8) (drive 0x0109 0xF6 0)) ≠ outs (exec (.shr .unsigned 8) (drive 0x0109 0xF6 0)) :=
  ⟨legal_8, by decide, by decide⟩

/-- The largest amount of each clause at width 8: `w - 1` for SHL and SHR, `w - 2` for SAR. -/
theorem witness_ShiftsAgreeWithMulAndDiv :
    LegalWidth 8 8 ∧
      ((drive 0x0108 3 7).inp.b.toNat = 7 ∧ (drive 0x0102 3 128).inp.b.toNat = 2 ^ 7 ∧ 7 < 8 ∧ 7 ≤ 8 - 1) ∧
      ((drive 0x011A 0x80 6).inp.b.toNat = 6 ∧ (drive 0x0113 0x80 64).inp.b.toNat = 2 ^ 6 ∧ 6 ≤ 8 - 2) :=
  ⟨legal_8, by decide, by decide⟩

theorem witness_ShlOverflowIsAnOption :
    widthIsLegal Config.t64 8 = true ∧ (0x7FFFFFFF : Word).getLsbD 31 = false ∧
      evalShl { Config.t64 with shlOvf := true } .unsigned 8 0x81 1 =
        .ok { r := 2, rem := 0, ovf := true, unf := false, dbz := false } := by decide

/-! ## Sequences -/

/-- 30_encoding R62 and R133: an output of an earlier command on a later port, and the refusal of one that has none. -/
theorem test_sequence_feeds_results_and_refuses_missing_ones :
    (runSequence State.reset [] [{ cmd := 0x0113, a := .literal (-7), b := .literal 2 },
        { cmd := 0x0110, a := .result 1, b := .remainder 1 }]).map (List.map (·.r)) =
      .ok [0xFFFFFFFC, 0xFFFFFFFD] ∧
    runSequence State.reset [] [{ cmd := 0x0184, a := .literal 1, b := .literal 2 },
        { cmd := 0x0100, a := .result 1, b := .literal 0 }] = .error (.noResult 1) := by decide

end Sys2Proof.Tests
end

/-! PROOFS of the family 10_state: the range of R and REM (R33) and the flag table (R28). First what an evaluation that
has a result went through, then the range of each result, then its flags. -/

namespace Sys2Proof.Proofs.StateRules

open Sys2Proof Sys2Proof.Machine Sys2Proof.Claims

/-! ## Evaluations that have a result -/

/-- A next state of `exec` either carries the result of the evaluation, or its command raised (60_exceptions R133). -/
theorem exec_next_cases {i : Instr} {s t : State} (h : exec i s = .next t) :
    (∃ x, evalInstr Config.t64 i s.inp.a s.inp.b = .ok x ∧ t.out = resultOutputs x) ∨ t.out = errorOutputs := by
  rw [exec_next_iff] at h
  subst h
  cases evalInstr Config.t64 i s.inp.a s.inp.b with
  | ok x => exact .inl ⟨x, rfl, rfl⟩
  | error f => exact .inr rfl

/-- Every legal width is positive and fits the port, under every configuration (30_encoding R53). -/
theorem width_bounds_of_legal {cfg : Config} {width : WidthField} (h : widthIsLegal cfg width = true) :
    0 < width.toNat ∧ width.toNat ≤ 32 := by
  simp only [widthIsLegal, Bool.or_eq_true, Bool.and_eq_true, beq_iff_eq] at h
  omega

/-- Past the width check: the unit answered at a width that is positive and fits the port. -/
theorem atWidth_ok {cfg : Config} {width : WidthField} {unit : Nat → Evaluation} {x : Result}
    (h : atWidth cfg width unit = .ok x) :
    0 < width.toNat ∧ width.toNat ≤ 32 ∧ unit width.toNat = .ok x := by
  cases hl : widthIsLegal cfg width with
  | true =>
    obtain ⟨hpos, hle⟩ := width_bounds_of_legal hl
    rw [atWidth_of_legal _ _ _ hl] at h
    exact ⟨hpos, hle, h⟩
  | false =>
    rw [atWidth_of_illegal _ _ _ hl] at h
    cases h

/-- Past the amount check: the unit answered for the whole amount (45_shifter R120). -/
theorem withAmount_ok {b : Word} {unit : Nat → Evaluation} {x : Result} (h : withAmount b unit = .ok x) :
    unit b.toNat = .ok x := by
  rw [withAmount_eq] at h
  split at h
  · cases h
  · exact h

/-! ## The range of the results (R33) -/

/-- R and REM of a result lie in the range of a width and mode. -/
def ResultInRange (sg : Signedness) (w : Nat) (x : Result) : Prop := inRange sg w x.r ∧ inRange sg w x.rem

theorem inRange_zero (sg : Signedness) (w : Nat) : inRange sg w 0 := by
  cases sg <;> simp [inRange]

/-- A pattern, presented, lies in the range of its width and mode: the unsigned extension keeps the number, the signed
one the two's-complement reading (40_sign_converter R76). -/
theorem inRange_present {p w : Nat} (sg : Signedness) (hw : w ≤ 32) (hp : p < 2 ^ w) :
    inRange sg w (present p sg w) := by
  obtain ⟨x, rfl⟩ : ∃ x : BitVec w, p = x.toNat := ⟨BitVec.ofNatLT p hp, rfl⟩
  cases sg with
  | unsigned =>
    rw [present_unsigned, inRange, BitVec.toNat_setWidth]
    exact (Nat.mod_le _ _).trans_lt hp
  | signed =>
    rw [present_signed x hw, inRange, BitVec.toInt_signExtend_of_le hw]
    exact ⟨BitVec.le_toInt x, BitVec.toInt_lt⟩

theorem and_mask_lt (p w : Nat) : p &&& mask w < 2 ^ w := by
  rw [mask, Nat.and_two_pow_sub_one_eq_mod]
  exact Nat.mod_lt _ (by positivity)

theorem rangedResult_inRange {c : RangeChecked} {sg : Signedness} {w : Nat} {x : Result} (hw : w ≤ 32)
    (hc : c.pattern < 2 ^ w) (h : rangedResult c sg w = .ok x) : ResultInRange sg w x := by
  cases h
  exact ⟨inRange_present sg hw hc, inRange_zero sg w⟩

theorem plainResult_inRange {p : Nat} {sg : Signedness} {w : Nat} {x : Result} (hw : w ≤ 32) (hp : p < 2 ^ w)
    (h : plainResult p sg w = .ok x) : ResultInRange sg w x := by
  cases h
  exact ⟨inRange_present sg hw hp, inRange_zero sg w⟩

theorem divideByZero_inRange {sg : Signedness} {w : Nat} {x : Result} (h : divideByZero = .ok x) :
    ResultInRange sg w x := by
  cases h
  exact ⟨inRange_zero sg w, inRange_zero sg w⟩

theorem checkUnsigned_pattern_lt (t : Int) (w : Nat) : (checkUnsigned t w).pattern < 2 ^ w := by
  rw [checkUnsigned_spec]
  exact normTo_lt t w

theorem checkSigned_pattern_lt (t : Int) {w : Nat} (hw : 0 < w) : (checkSigned t w).pattern < 2 ^ w := by
  rw [checkSigned_spec t w hw]
  exact normTo_lt t w

/-- Every row's result lies in the range of its width and mode, under every configuration: each unit presents a pattern
of `w` bits, and 0 elsewhere. -/
theorem evalInstr_inRange {cfg : Config} {i : Instr} {a b : Word} {x : Result} (h : evalInstr cfg i a b = .ok x) :
    ResultInRange i.signedness i.width.toNat x := by
  cases i with
  | addU width | subU width | mulU width =>
    obtain ⟨-, hle, hu⟩ := atWidth_ok h
    exact rangedResult_inRange hle (checkUnsigned_pattern_lt _ _) hu
  | addS width | subS width | mulS width =>
    obtain ⟨hpos, hle, hu⟩ := atWidth_ok h
    exact rangedResult_inRange hle (checkSigned_pattern_lt _ hpos) hu
  | divU width =>
    obtain ⟨-, hle, hu⟩ := atWidth_ok h
    split at hu
    · exact divideByZero_inRange hu
    · cases hu
      exact ⟨inRange_present _ hle (normTo_lt _ _), inRange_present _ hle (normTo_lt _ _)⟩
  | divS width =>
    obtain ⟨hpos, hle, hu⟩ := atWidth_ok h
    split at hu
    · exact divideByZero_inRange hu
    · cases hu
      exact ⟨inRange_present _ hle (checkSigned_pattern_lt _ hpos), inRange_present _ hle (normTo_lt _ _)⟩
  | and sg width | or sg width | xor sg width =>
    obtain ⟨-, hle, hu⟩ := atWidth_ok h
    exact plainResult_inRange hle (and_mask_lt _ _) hu
  | not sg width =>
    obtain ⟨-, hle, hu⟩ := atWidth_ok h
    exact plainResult_inRange hle (normTo_lt _ _) hu
  | shl sg width =>
    obtain ⟨-, hle, hu⟩ := atWidth_ok h
    cases withAmount_ok hu
    exact ⟨inRange_present sg hle (normTo_lt _ _), inRange_zero sg _⟩
  | shr sg width | sar sg width =>
    obtain ⟨-, hle, hu⟩ := atWidth_ok h
    exact plainResult_inRange hle (normTo_lt _ _) (withAmount_ok hu)

/-- Settles O33: a next state with ERR = 0 carries a result of the evaluation, and every row's result is in range. -/
theorem resultsLieInRange : Obligations.ResultsLieInRange := by
  unfold Obligations.ResultsLieInRange
  intro i s t h herr
  rcases exec_next_cases h with ⟨x, hx, ht⟩ | ht
  · rw [ht]
    exact evalInstr_inRange hx
  · simp [ht] at herr

/-! ## The flags (R28) -/

/-- The three condition flags of a result, in the order of the table. -/
def resultFlags (x : Result) : Bool × Bool × Bool := (x.ovf, x.unf, x.dbz)

theorem maxSigned_eq (w : Nat) : maxSigned w = 2 ^ (w - 1) - 1 := by
  simp [maxSigned, msbMask]

theorem minSigned_eq (w : Nat) : minSigned w = -(2 ^ (w - 1)) := by
  simp [minSigned, msbMask]

/-- The flags of an unsigned range check on the true result `t` (41_adder R85, R86; 42_multiplier R95). -/
theorem rangedResult_unsigned_flags {t : Int} {w : Nat} {x : Result}
    (h : rangedResult (checkUnsigned t w) .unsigned w = .ok x) :
    resultFlags x = (decide (2 ^ w - 1 < t), decide (t < 0), false) := by
  rw [rangedResult_unsigned] at h
  cases h
  simp [resultFlags]

/-- The flags of an unsigned operation whose true result cannot fall below 0. -/
theorem rangedResult_unsigned_flags_of_nonneg {t : Int} {w : Nat} {x : Result} (ht : 0 ≤ t)
    (h : rangedResult (checkUnsigned t w) .unsigned w = .ok x) :
    resultFlags x = (decide (2 ^ w - 1 < t), false, false) := by
  rw [rangedResult_unsigned_flags h, decide_eq_false ht.not_gt]

/-- The flags of a signed range check on the true result `t` (40_sign_converter R77). -/
theorem rangedResult_signed_flags {t : Int} {w : Nat} {x : Result} (hw : 0 < w) (hw' : w ≤ 32)
    (h : rangedResult (checkSigned t w) .signed w = .ok x) :
    resultFlags x = (decide (2 ^ (w - 1) - 1 < t), decide (t < -(2 ^ (w - 1))), false) := by
  rw [rangedResult_signed t w hw hw'] at h
  cases h
  simp only [resultFlags, maxSigned_eq, minSigned_eq, gt_iff_lt]

theorem plainResult_flags {p : Nat} {sg : Signedness} {w : Nat} {x : Result} (h : plainResult p sg w = .ok x) :
    resultFlags x = (false, false, false) := by
  cases h
  rfl

theorem divideByZero_flags {x : Result} (h : divideByZero = .ok x) : resultFlags x = (false, false, true) := by
  cases h
  rfl

/-- A difference of patterns never exceeds the unsigned maximum (41_adder R86). -/
theorem sub_le_maxUnsigned {w : Nat} (x y : BitVec w) : ¬ ((2 : Int) ^ w - 1 < x.toNat - y.toNat) := by
  have hx : (x.toNat : Int) < 2 ^ w := by exact_mod_cast x.isLt
  omega

/-- Floored division by a nonzero `y` of an `x` in `[-m, m - 1]`: the quotient never falls below the range, and leaves
it at the top for the minimum by -1 alone (43_divider R101). -/
theorem fdiv_range {m x y : Int} (hm : 0 < m) (hx : -m ≤ x) (hx' : x < m) (hy : y ≠ 0) :
    -m ≤ Int.fdiv x y ∧ (m ≤ Int.fdiv x y ↔ x = -m ∧ y = -1) := by
  rcases lt_or_gt_of_ne hy with hneg | hpos
  · obtain ⟨z, rfl⟩ : ∃ z, y = -z := ⟨-y, by ring⟩
    have hz : 0 < z := by omega
    have hflip : Int.fdiv x (-z) = -x / z := by
      rw [← Int.neg_fdiv_neg, neg_neg, Int.fdiv_eq_ediv_of_nonneg _ hz.le]
    rw [hflip, Int.le_ediv_iff_mul_le hz, Int.le_ediv_iff_mul_le hz]
    refine ⟨by nlinarith, fun h => ?_, ?_⟩
    · have hz1 : z = 1 := by nlinarith
      subst hz1
      omega
    · rintro ⟨rfl, hz1⟩
      obtain rfl : z = 1 := by omega
      simp
  · rw [Int.fdiv_eq_ediv_of_nonneg _ hpos.le, Int.le_ediv_iff_mul_le hpos, Int.le_ediv_iff_mul_le hpos]
    refine ⟨by nlinarith, fun h => ?_, fun h => ?_⟩
    · nlinarith
    · omega

/-- The range flags of a floored signed quotient: OVF for the minimum by -1, UNF never (43_divider R101). -/
theorem checkSigned_fdiv_flags {w : Nat} (hw : 0 < w) (x : BitVec w) {y : BitVec w} (hy : y.toInt ≠ 0) :
    (checkSigned (Int.fdiv x.toInt y.toInt) w).ovf = decide (x.toInt = -(2 ^ (w - 1)) ∧ y.toInt = -1) ∧
      (checkSigned (Int.fdiv x.toInt y.toInt) w).unf = false := by
  obtain ⟨hmin, hmax⟩ := fdiv_range (by positivity) (BitVec.le_toInt x) BitVec.toInt_lt hy
  rw [checkSigned_spec _ _ hw, maxSigned_eq, minSigned_eq]
  exact ⟨decide_eq_decide.mpr (Int.sub_one_lt_iff.trans hmax), decide_eq_false hmin.not_gt⟩

/-- DIV.U sets DBZ alone, on a zero divisor: the defensive check of R100 does not fire. -/
theorem evalDivU_flags {cfg : Config} {width : WidthField} {a b : Word} {x : Result}
    (h : evalDivU cfg width a b = .ok x) : resultFlags x = flagTable (.divU width) a b := by
  obtain ⟨-, -, hu⟩ := atWidth_ok h
  simp only [flagTable, Instr.width, Int.natCast_eq_zero, ← valueOperand_eq]
  split at hu
  next hzero => rw [divideByZero_flags hu, decide_eq_true hzero]
  next hnonzero =>
    cases hu
    have hq : ¬ Int.fdiv (valueOperand a width.toNat) (valueOperand b width.toNat) < 0 :=
      (Int.fdiv_nonneg (Int.natCast_nonneg _) (Int.natCast_nonneg _)).not_gt
    simp [resultFlags, hq, hnonzero]

/-- DIV.S sets OVF for the minimum by -1, never UNF, and DBZ on a zero divisor (R101, R103). -/
theorem evalDivS_flags {width : WidthField} {a b : Word} {x : Result}
    (h : evalDivS Config.t64 width a b = .ok x) : resultFlags x = flagTable (.divS width) a b := by
  obtain ⟨hpos, -, hu⟩ := atWidth_ok h
  simp only [signedOperand_eq _ _ hpos] at hu
  split at hu
  next hzero => simp [divideByZero_flags hu, flagTable, Instr.width, hzero]
  next hnonzero =>
    obtain ⟨hovf, hunf⟩ := checkSigned_fdiv_flags hpos (a.setWidth width.toNat) hnonzero
    cases hu
    exact Prod.ext hovf (Prod.ext hunf (decide_eq_false hnonzero).symm)

/-- Every row's flags are those of the table of R28. -/
theorem evalInstr_flags {i : Instr} {a b : Word} {x : Result} (h : evalInstr Config.t64 i a b = .ok x) :
    resultFlags x = flagTable i a b := by
  cases i with
  | addU width | mulU width =>
    obtain ⟨-, -, hu⟩ := atWidth_ok h
    rw [rangedResult_unsigned_flags_of_nonneg (by positivity) hu, valueOperand_eq, valueOperand_eq]
    rfl
  | subU width =>
    obtain ⟨-, -, hu⟩ := atWidth_ok h
    rw [rangedResult_unsigned_flags hu, valueOperand_eq, valueOperand_eq, decide_eq_false (sub_le_maxUnsigned _ _)]
    rfl
  | addS width | subS width | mulS width =>
    obtain ⟨hpos, hle, hu⟩ := atWidth_ok h
    rw [rangedResult_signed_flags hpos hle hu, signedOperand_eq _ _ hpos, signedOperand_eq _ _ hpos]
    rfl
  | divU width => exact evalDivU_flags h
  | divS width => exact evalDivS_flags h
  | and sg width | or sg width | xor sg width | not sg width =>
    obtain ⟨-, -, hu⟩ := atWidth_ok h
    exact plainResult_flags hu
  | shl sg width =>
    obtain ⟨-, -, hu⟩ := atWidth_ok h
    cases withAmount_ok hu
    rfl
  | shr sg width | sar sg width =>
    obtain ⟨-, -, hu⟩ := atWidth_ok h
    have hn := withAmount_ok hu
    exact plainResult_flags hn

/-- Settles O34: a next state carries the flags of its evaluation's result, or the error outcome. -/
theorem flagsFollowTheTable : Obligations.FlagsFollowTheTable := by
  unfold Obligations.FlagsFollowTheTable
  intro i s t h
  rcases exec_next_cases h with ⟨x, hx, ht⟩ | ht
  · rw [ht]
    exact evalInstr_flags hx
  · rw [ht]
    rfl

end Sys2Proof.Proofs.StateRules

/-! PROOFS of the family 20_memory: evaluations share nothing (R46). First a step as one evaluation of the inputs that
are held, then what a host that drives a command and steps gets back. -/

namespace Sys2Proof.Proofs.MemoryRules

open Sys2Proof Sys2Proof.Machine Sys2Proof.Claims

/-! ## A step is one evaluation -/

/-- With all inputs defined, a step answers with `eval` of the held inputs, whether the word decodes or raises
(30_encoding R55; 60_exceptions R133). -/
theorem step_of_defined {s : State} (h : s.inputsDefined = true) :
    step s = answer (eval Config.t64 s.inp.cmd s.inp.a s.inp.b) s := by
  cases hd : decode s.inp.cmd with
  | ok i => simp [step, h, fetch, eval, hd, exec_eq_answer]
  | error e => simp [step_of_rejected s h e hd, takeInvalidArgument, eval, hd]

/-! ## A driven command -/

/-- Driving a command replaces the one driven before. -/
@[simp] theorem driveInputs_driveInputs (cmd cmd' : CmdWord) (a a' b b' : Word) (s : State) :
    (s.driveInputs cmd a b).driveInputs cmd' a' b' = s.driveInputs cmd' a' b' := rfl

/-- The host drives the inputs and the block the outputs: neither touches the ports of the other (70_reset R154). -/
@[simp] theorem driveInputs_driveOutputs (o : Outputs) (cmd : CmdWord) (a b : Word) (s : State) :
    (driveOutputs o s).driveInputs cmd a b = driveOutputs o (s.driveInputs cmd a b) := rfl

/-- What a next state after a driven command is. -/
theorem step_driveInputs_next_iff {s t : State} {cmd : CmdWord} {a b : Word} :
    step (s.driveInputs cmd a b) = .next t ↔
      t = driveOutputs (outputsOf (eval Config.t64 cmd a b)) (s.driveInputs cmd a b) := by
  rw [step_of_defined (driveInputs_inputsDefined cmd a b s), answer_next_iff, driveInputs_cmd, driveInputs_a,
    driveInputs_b]

/-- The outputs after a driven command are those of its evaluation: nothing of the state before enters (R46 (a)). -/
theorem out_of_step_driveInputs {s t : State} {cmd : CmdWord} {a b : Word}
    (h : step (s.driveInputs cmd a b) = .next t) : t.out = outputsOf (eval Config.t64 cmd a b) := by
  rw [step_driveInputs_next_iff.mp h, driveOutputs_out]

/-- The same command once more leaves the whole state as the first left it (R46 (c)). -/
theorem step_driveInputs_again {s t u : State} {cmd : CmdWord} {a b : Word}
    (ht : step (s.driveInputs cmd a b) = .next t) (hu : step (t.driveInputs cmd a b) = .next u) : t = u := by
  rw [step_driveInputs_next_iff] at ht hu
  rw [hu, ht, driveInputs_driveOutputs, driveInputs_driveInputs, driveOutputs_driveOutputs]

/-- Settles O28: both (a) and (b) compare outputs of one command from two states, each the evaluation of that command's
inputs alone; (c) is the repeated command. -/
theorem outputsDependOnInputsAlone : Obligations.OutputsDependOnInputsAlone := by
  unfold Obligations.OutputsDependOnInputsAlone
  refine ⟨fun s s' t t' cmd a b ht ht' => ?alone, fun s t u t' u' cmd a b cmd' a' b' ht hu ht' hu' => ?commute,
    fun s t u cmd a b ht hu => step_driveInputs_again ht hu⟩
  case alone => exact (out_of_step_driveInputs ht).trans (out_of_step_driveInputs ht').symm
  case commute =>
    exact ⟨(out_of_step_driveInputs ht).trans (out_of_step_driveInputs hu').symm,
      (out_of_step_driveInputs hu).trans (out_of_step_driveInputs ht').symm⟩

end Sys2Proof.Proofs.MemoryRules

/-! PROOFS of the family 30_encoding: the legal command words (R58). First the words that decode, in terms of their
fields, then the list of legal words as the words that decode at a legal WIDTH. -/

namespace Sys2Proof.Proofs.EncodingRules

open Sys2Proof Sys2Proof.Machine Sys2Proof.Claims

/-! ## The words that decode -/

theorem rsvField_eq_zero_iff (cmd : CmdWord) : rsvField cmd = 0 ↔ cmd.toNat / 2048 = 0 := by
  rw [← rsvField_toNat, ← BitVec.toNat_inj]
  rfl

/-- A word decodes exactly if RSV is 0 and OP is not reserved, and then to an instruction that has its WIDTH (30_encoding
R51, R54). -/
theorem decode_ok_width_iff (cmd : CmdWord) (width : WidthField) :
    (∃ i, decode cmd = .ok i ∧ i.width = width) ↔
      cmd.toNat / 2048 = 0 ∧ cmd.toNat % 16 ≤ 10 ∧ widthField cmd = width := by
  rw [← rsvField_eq_zero_iff, ← opField_toNat, decode]
  by_cases hrsv : rsvField cmd = 0
  · rw [if_neg (not_not.mpr hrsv)]
    rcases decodeOp_spec (opField cmd).toNat (sField cmd) (widthField cmd) with
      ⟨hop, hreject⟩ | ⟨hop, i, hi, hwidth, -⟩
    · simp [hreject, hop.not_ge]
    · simp [hi, hwidth, hrsv, hop]
  · rw [if_pos hrsv]
    exact iff_of_false (by simp) fun hfields => hrsv hfields.1

/-! ## The legal words -/

theorem widthIsLegal_iff_mem_widths (cfg : Config) (width : WidthField) :
    widthIsLegal cfg width = true ↔ width.toNat ∈ cfg.widths := by
  have hcheck : widthIsLegal cfg width = cfg.widths.contains width.toNat :=
    widthIsLegal_eq_wellFormed cfg (.addU width)
  rw [hcheck, List.contains_iff_mem]

theorem le_of_mem_widths {cfg : Config} {w : Nat} (h : w ∈ cfg.widths) : w ≤ 32 := by
  unfold Config.widths at h
  split at h <;> simp at h <;> omega

/-- A word is listed exactly if its fields are: RSV 0, OP up to 0xA, WIDTH in WIDTHS (R58). The listed word is put
together from its fields, and S is any bit. -/
theorem mem_legalWords_iff_fields (cfg : Config) (cmd : CmdWord) :
    cmd ∈ legalWords cfg ↔
      cmd.toNat / 2048 = 0 ∧ cmd.toNat % 16 ≤ 10 ∧ cmd.toNat / 32 % 64 ∈ cfg.widths := by
  simp only [legalWords, List.mem_flatMap, List.mem_map, List.mem_range]
  constructor
  · rintro ⟨op, hop, sg, hsg, w, hw, rfl⟩
    have hw32 : w ≤ 32 := le_of_mem_widths hw
    have hsg1 : sg ≤ 1 := by simp at hsg; omega
    have hword : (BitVec.ofNat 16 (w * 32 + sg * 16 + op)).toNat = w * 32 + sg * 16 + op :=
      Nat.mod_eq_of_lt (by omega)
    have hwidth : (w * 32 + sg * 16 + op) / 32 % 64 = w := by omega
    rw [hword, hwidth]
    exact ⟨by omega, by omega, hw⟩
  · rintro ⟨hrsv, hop, hw⟩
    have hs : cmd.toNat / 16 % 2 = 0 ∨ cmd.toNat / 16 % 2 = 1 := Nat.mod_two_eq_zero_or_one _
    refine ⟨cmd.toNat % 16, by omega, cmd.toNat / 16 % 2, by simpa using hs, cmd.toNat / 32 % 64, hw, ?_⟩
    have hparts : cmd.toNat / 32 % 64 * 32 + cmd.toNat / 16 % 2 * 16 + cmd.toNat % 16 = cmd.toNat := by omega
    rw [hparts, BitVec.ofNat_toNat, BitVec.setWidth_eq]

/-- The legal words are those that decode to an instruction of a legal WIDTH (R58). -/
theorem mem_legalWords_iff (cfg : Config) (cmd : CmdWord) :
    cmd ∈ legalWords cfg ↔ ∃ i, decode cmd = .ok i ∧ widthIsLegal cfg i.width = true := by
  rw [mem_legalWords_iff_fields, ← widthField_toNat, ← widthIsLegal_iff_mem_widths]
  constructor
  · rintro ⟨hrsv, hop, hlegal⟩
    obtain ⟨i, hi, hwidth⟩ := (decode_ok_width_iff cmd (widthField cmd)).mpr ⟨hrsv, hop, rfl⟩
    exact ⟨i, hi, hwidth ▸ hlegal⟩
  · rintro ⟨i, hi, hlegal⟩
    obtain ⟨hrsv, hop, hwidth⟩ := (decode_ok_width_iff cmd i.width).mp ⟨i, hi, rfl⟩
    exact ⟨hrsv, hop, hwidth ▸ hlegal⟩

theorem legalWords_length (cfg : Config) : (legalWords cfg).length = 22 * cfg.widths.length := by
  simp [legalWords]
  omega

/-- The list depends on a configuration through HAS_W32 alone, so two closed lists are to be checked. -/
theorem legalWords_nodup (cfg : Config) : (legalWords cfg).Nodup := by
  obtain ⟨hasW32, divRounding, shlOvf⟩ := cfg
  cases hasW32
  case false => exact (by decide : (legalWords { Config.t64 with hasW32 := false }).Nodup)
  case true => exact (by decide : (legalWords Config.t64).Nodup)

/-- A legal word has a result, unless a negative amount stands on B (30_encoding R55). -/
theorem eval_of_legal {cfg : Config} {cmd : CmdWord} {a b : Word} (hcmd : cmd ∈ legalWords cfg)
    (hb : b.getLsbD 31 = false) : ∃ x, eval cfg cmd a b = .ok x := by
  obtain ⟨i, hi, hlegal⟩ := (mem_legalWords_iff cfg cmd).mp hcmd
  rw [eval, hi]
  exact evalInstr_has_result cfg i a b hlegal fun _ => hb

/-- Any other word raises, in the decoder or at the width check (R58). -/
theorem eval_of_not_legal {cfg : Config} {cmd : CmdWord} (a b : Word) (hcmd : cmd ∉ legalWords cfg) :
    ∃ cause, eval cfg cmd a b = .error (.invalidArgument cause) := by
  cases hd : decode cmd with
  | error e => exact ⟨causeOfRejection e, by rw [eval, hd]; rfl⟩
  | ok i =>
    have hillegal : widthIsLegal cfg i.width = false :=
      Bool.eq_false_iff.mpr fun hlegal => hcmd ((mem_legalWords_iff cfg cmd).mpr ⟨i, hd, hlegal⟩)
    exact ⟨.bitWidth, by rw [eval, hd]; exact evalInstr_of_illegal cfg i a b hillegal⟩

/-- Settles O20: the list is counted, and its words are those that decode at a legal WIDTH. -/
theorem legalCommandsAreSixtySix : Obligations.LegalCommandsAreSixtySix := by
  unfold Obligations.LegalCommandsAreSixtySix
  intro cfg
  refine ⟨legalWords_nodup cfg, ?count, fun cmd hcmd a b hb => eval_of_legal hcmd hb,
    fun cmd hcmd a b => eval_of_not_legal a b hcmd⟩
  case count =>
    rw [legalWords_length, Config.widths]
    split <;> rfl

end Sys2Proof.Proofs.EncodingRules

/-! PROOFS of the family 40_sign_converter: the signed wrap (R74) and the presentation on a result port (R76). First the
wrap as a residue moved into the signed range, then the port of a pattern as the extension of its vector. -/

namespace Sys2Proof.Proofs.SignConverterRules

open Sys2Proof Sys2Proof.Machine Sys2Proof.Proofs.StateRules

/-! ## The signed wrap (R74) -/

/-- The formula of R74 as the source spells it, with `max_signed(w)` a number. -/
theorem wrapSigned_eq_fmod_maxSigned (t : Int) (w : Nat) :
    wrapSigned t w =
      (t + (2 ^ (w - 1) - 1) + 1).fmod (2 * ((2 ^ (w - 1) - 1) + 1)) - ((2 ^ (w - 1) - 1) + 1) := by
  rw [wrapSigned, maxSigned_eq]

/-- The modulus of a width is twice the weight of its sign bit (R70). -/
theorem int_two_pow_eq {w : Nat} (hw : 0 < w) : (2 : Int) ^ w = 2 * 2 ^ (w - 1) :=
  (mul_pow_sub_one hw.ne' 2).symm

/-- The formula of R74 in powers of two: move the signed range up to the patterns, reduce, move back. -/
theorem wrapSigned_eq_fmod_two_pow (t : Int) {w : Nat} (hw : 0 < w) :
    wrapSigned t w = (t + 2 ^ (w - 1)).fmod (2 ^ w) - 2 ^ (w - 1) := by
  have hmax : (2 : Int) ^ (w - 1) - 1 + 1 = 2 ^ (w - 1) := sub_add_cancel _ _
  rw [wrapSigned_eq_fmod_maxSigned, add_assoc, hmax, int_two_pow_eq hw]

/-- The floored modulo of R74 is by a positive number, so it is the Euclidean remainder. -/
theorem wrapSigned_eq_emod (t : Int) {w : Nat} (hw : 0 < w) :
    wrapSigned t w = (t + 2 ^ (w - 1)) % 2 ^ w - 2 ^ (w - 1) := by
  rw [wrapSigned_eq_fmod_two_pow t hw, Int.fmod_eq_emod_of_nonneg _ (by positivity)]

theorem wrapSigned_mem_range (t : Int) {w : Nat} (hw : 0 < w) :
    -(2 ^ (w - 1)) ≤ wrapSigned t w ∧ wrapSigned t w ≤ 2 ^ (w - 1) - 1 := by
  have hpos : (0 : Int) < 2 ^ w := by positivity
  have hnonneg := Int.emod_nonneg (t + 2 ^ (w - 1)) hpos.ne'
  have hlt := Int.emod_lt_of_pos (t + 2 ^ (w - 1)) hpos
  have hdouble := int_two_pow_eq hw
  rw [wrapSigned_eq_emod t hw]
  omega

theorem two_pow_dvd_wrapSigned_sub (t : Int) {w : Nat} (hw : 0 < w) : 2 ^ w ∣ wrapSigned t w - t := by
  have hsplit : wrapSigned t w - t = (t + 2 ^ (w - 1)) % 2 ^ w - (t + 2 ^ (w - 1)) := by
    rw [wrapSigned_eq_emod t hw]
    ring
  rw [hsplit]
  exact Int.dvd_emod_sub_self

theorem wrapSigned_of_mem_range {t : Int} {w : Nat} (hw : 0 < w) (hmin : -(2 ^ (w - 1)) ≤ t)
    (hmax : t ≤ 2 ^ (w - 1) - 1) : wrapSigned t w = t := by
  have hdouble := int_two_pow_eq hw
  rw [wrapSigned_eq_emod t hw, Int.emod_eq_of_lt (by omega) (by omega), add_sub_cancel_right]

/-- Settles O41: the wrap is a residue of `2^w` moved into the signed range. -/
theorem wrapLandsInRange : Obligations.WrapLandsInRange := by
  unfold Obligations.WrapLandsInRange
  intro t w hw
  obtain ⟨hmin, hmax⟩ := wrapSigned_mem_range t hw
  exact ⟨wrapSigned_eq_fmod_maxSigned t w, wrapSigned_eq_fmod_two_pow t hw, hmin, hmax,
    two_pow_dvd_wrapSigned_sub t hw, wrapSigned_of_mem_range hw⟩

/-! ## The presentation on a port (R76) -/

section Presentation

variable {w : Nat} (x : BitVec w)

theorem present_unsigned_toNat (hw : w ≤ 32) : (present x.toNat .unsigned w).toNat = x.toNat := by
  rw [present_unsigned, BitVec.toNat_setWidth_of_le hw]

theorem present_unsigned_getLsbD {k : Nat} (hk : k < 32) :
    (present x.toNat .unsigned w).getLsbD k = (decide (k < w) && x.getLsbD k) := by
  rw [present_unsigned, BitVec.getLsbD_setWidth]
  by_cases hkw : k < w
  · simp [hk, hkw]
  · simp [hkw, BitVec.getLsbD_of_ge x k (not_lt.mp hkw)]

/-- With the sign bit set, the ones above a `w`-bit pattern add `2^32 - 2^w`. -/
theorem present_signed_toNat (hw : w ≤ 32) :
    (present x.toNat .signed w).toNat = if x.getLsbD (w - 1) then x.toNat + 2 ^ 32 - 2 ^ w else x.toNat := by
  have hpow : 2 ^ w ≤ 2 ^ 32 := Nat.pow_le_pow_right (by omega) hw
  rw [present_signed x hw, BitVec.toNat_signExtend, BitVec.toNat_setWidth_of_le hw, BitVec.msb_eq_getLsbD_last]
  split <;> omega

/-- Every bit of the signed port from `w - 1` up is the sign bit. -/
theorem present_signed_getLsbD (hw : w ≤ 32) {k : Nat} (hk : k < 32) :
    (present x.toNat .signed w).getLsbD k = x.getLsbD (min k (w - 1)) := by
  rw [present_signed x hw, BitVec.getLsbD_signExtend, BitVec.msb_eq_getLsbD_last]
  by_cases hkw : k < w
  · simp [hk, hkw, Nat.le_sub_one_of_lt hkw]
  · have hmin : min k (w - 1) = w - 1 := min_eq_right (by omega)
    simp [hk, hkw, hmin]

theorem present_signed_toInt (hpos : 0 < w) (hw : w ≤ 32) :
    (present x.toNat .signed w).toInt = toSigned x.toNat w := by
  rw [present_signed x hw, BitVec.toInt_signExtend_of_le hw, toSigned_eq x hpos]

end Presentation

/-- Settles O42: a pattern is the number of a `w`-bit vector, and the port is that vector's extension. -/
theorem presentDrivesThePort : Obligations.PresentDrivesThePort := by
  unfold Obligations.PresentDrivesThePort
  intro w p hlegal hp
  have hpos : 0 < w := by omega
  have hw : w ≤ 32 := by omega
  obtain ⟨x, rfl⟩ : ∃ x : BitVec w, p = x.toNat := ⟨BitVec.ofNatLT p hp, rfl⟩
  exact ⟨present_unsigned_toNat x hw, present_signed_toNat x hw,
    fun k hk => ⟨present_unsigned_getLsbD x hk, present_signed_getLsbD x hw hk⟩,
    present_signed_toInt x hpos hw⟩

end Sys2Proof.Proofs.SignConverterRules

/-! PROOFS of the family 41_adder: the four rows of the adder (R85 to R88). First what a row of the opcode table does at
a legal WIDTH, then the outputs of an operation with a true result, then the wrapped sum and difference. -/

namespace Sys2Proof.Proofs.AdderRules

open Sys2Proof Sys2Proof.Machine Sys2Proof.Claims Sys2Proof.Proofs.StateRules Sys2Proof.Proofs.EncodingRules

/-! ## A row at a legal WIDTH -/

theorem sBit_lt_two (sg : Signedness) : sBit sg < 2 := by
  cases sg <;> decide

theorem sField_of_bit {cmd : CmdWord} {sg : Signedness} (h : cmd.toNat / 16 % 2 = sBit sg) : sField cmd = sg := by
  have hbit : cmd.getLsbD 4 = decide (cmd.toNat / 16 % 2 = 1) := Nat.testBit_eq_decide_div_mod_eq
  rw [sField, hbit, h]
  cases sg <;> rfl

/-- A word put together from WIDTH, S and OP decodes as its OP and S say (30_encoding R51, R54). -/
theorem decode_fields (width : WidthField) (sg : Signedness) {op : Nat} (hop : op < 16) :
    decode (BitVec.ofNat 16 (width.toNat * 32 + (sBit sg * 16 + op))) = decodeOp op sg width := by
  have hwidth := width.isLt
  have hs := sBit_lt_two sg
  have hword : (BitVec.ofNat 16 (width.toNat * 32 + (sBit sg * 16 + op))).toNat =
      width.toNat * 32 + (sBit sg * 16 + op) := Nat.mod_eq_of_lt (by omega)
  generalize BitVec.ofNat 16 (width.toNat * 32 + (sBit sg * 16 + op)) = cmd at hword
  have hrsv : rsvField cmd = 0 := (rsvField_eq_zero_iff cmd).mpr (by omega)
  have hopField : (opField cmd).toNat = op := by rw [opField_toNat]; omega
  have hsField : sField cmd = sg := sField_of_bit (by omega)
  have hwidthField : widthField cmd = width := BitVec.eq_of_toNat_eq (by rw [widthField_toNat]; omega)
  rw [decode, if_neg (not_not.mpr hrsv), hopField, hsField, hwidthField]

theorem widthIsLegal_of_legalWidth {width : WidthField} {w : Nat} (h : LegalWidth width w) :
    widthIsLegal Config.t64 width = true := by
  obtain ⟨rfl, hw⟩ := h
  exact (widthIsLegal_t64 width).mpr hw

/-- A row whose evaluation is the width check and then a unit does what the unit's outputs say: the check passes, and
the row drives the outputs alone (30_encoding R55). -/
theorem computesAs_of_unit {row : WidthField → Instr} {sg : Signedness} {op : Nat}
    {unit : Word → Word → Nat → Evaluation} {outputs : Nat → Word → Word → Outputs} (hop : op < 16)
    (hrow : ∀ width, decodeOp op sg width = .ok (row width))
    (hunit : ∀ width a b, evalInstr Config.t64 (row width) a b = atWidth Config.t64 width (unit a b))
    (houtputs : ∀ a b w, 0 < w → w ≤ 32 → outputsOf (unit a b w) = outputs w a b) :
    ComputesAs row (sBit sg * 16 + op) outputs := by
  intro width w s h
  have hlegal := widthIsLegal_of_legalWidth h
  obtain ⟨hpos, hle⟩ := width_bounds_of_legal hlegal
  obtain ⟨rfl, -⟩ := h
  refine ⟨(decode_fields width sg hop).trans (hrow width), ?_⟩
  rw [exec_eq_answer, answer_eq, hunit, atWidth_of_legal _ _ _ hlegal, houtputs _ _ _ hpos hle]

/-! ## The outputs of a true result -/

/-- The outputs of an unsigned range check on the true result `t` (R85, R86). -/
theorem outputsOf_rangedResult_unsigned (t : Int) (w : Nat) :
    outputsOf (rangedResult (checkUnsigned t w) .unsigned w) =
      { r := (BitVec.ofInt w t).setWidth 32, rem := 0, ovf := decide (((2 ^ w : Nat) : Int) ≤ t),
        unf := decide (t < 0), dbz := false, err := false } := by
  rw [rangedResult_unsigned]
  rfl

/-- The outputs of a signed range check on the true result `t` (40_sign_converter R77). -/
theorem outputsOf_rangedResult_signed (t : Int) {w : Nat} (hw : 0 < w) (hw' : w ≤ 32) :
    outputsOf (rangedResult (checkSigned t w) .signed w) = signedTuple (BitVec.ofInt w t) t := by
  rw [rangedResult_signed t w hw hw', maxSigned_eq, minSigned_eq]
  rfl

/-! ## The wrapped sum and difference -/

section Wrapped

variable {w : Nat} (x y : BitVec w)

theorem ofInt_toNat_cast : BitVec.ofInt w x.toNat = x := by
  rw [BitVec.ofInt_natCast, BitVec.ofNat_toNat, BitVec.setWidth_eq]

theorem ofInt_sub (s t : Int) : BitVec.ofInt w (s - t) = BitVec.ofInt w s - BitVec.ofInt w t := by
  rw [Int.sub_eq_add_neg, BitVec.ofInt_add, BitVec.ofInt_neg, BitVec.sub_eq_add_neg]

/-- A sum of patterns wraps to the sum of the vectors; it exceeds the maximum or fits, and is never below 0 (R85). -/
theorem outputsOf_add_unsigned :
    outputsOf (rangedResult (checkUnsigned (x.toNat + y.toNat) w) .unsigned w) =
      { r := (x + y).setWidth 32, rem := 0, ovf := decide (2 ^ w ≤ x.toNat + y.toNat), unf := false, dbz := false,
        err := false } := by
  have hwrap : BitVec.ofInt w (x.toNat + y.toNat) = x + y := by
    rw [BitVec.ofInt_add, ofInt_toNat_cast, ofInt_toNat_cast]
  have hovf : ((2 ^ w : Nat) : Int) ≤ x.toNat + y.toNat ↔ 2 ^ w ≤ x.toNat + y.toNat := by norm_cast
  have hunf : ¬ ((x.toNat : Int) + y.toNat < 0) := by omega
  rw [outputsOf_rangedResult_unsigned, hwrap, decide_eq_decide.mpr hovf, decide_eq_false hunf]

/-- A difference of patterns wraps to the difference of the vectors; it never exceeds the maximum, and is below 0 on a
borrow (R86). -/
theorem outputsOf_sub_unsigned :
    outputsOf (rangedResult (checkUnsigned (x.toNat - y.toNat) w) .unsigned w) =
      { r := (x - y).setWidth 32, rem := 0, ovf := false, unf := decide (x.toNat < y.toNat), dbz := false,
        err := false } := by
  have hwrap : BitVec.ofInt w (x.toNat - y.toNat) = x - y := by
    rw [ofInt_sub, ofInt_toNat_cast, ofInt_toNat_cast]
  have hx := x.isLt
  have hovf : ¬ (((2 ^ w : Nat) : Int) ≤ x.toNat - y.toNat) := by omega
  have hunf : (x.toNat : Int) - y.toNat < 0 ↔ x.toNat < y.toNat := by omega
  rw [outputsOf_rangedResult_unsigned, hwrap, decide_eq_false hovf, decide_eq_decide.mpr hunf]

theorem ofInt_toInt_add : BitVec.ofInt w (x.toInt + y.toInt) = x + y := by
  rw [BitVec.ofInt_add, BitVec.ofInt_toInt, BitVec.ofInt_toInt]

theorem ofInt_toInt_sub : BitVec.ofInt w (x.toInt - y.toInt) = x - y := by
  rw [ofInt_sub, BitVec.ofInt_toInt, BitVec.ofInt_toInt]

end Wrapped

/-! ## The four rows -/

/-- Settles O1: the sum of the masked operands, checked at the width. -/
theorem addUnsignedComputes : Obligations.AddUnsignedComputes := by
  unfold Obligations.AddUnsignedComputes
  refine computesAs_of_unit (sg := .unsigned) (op := 0) (by decide) (fun _ => rfl) (fun _ _ _ => rfl) ?_
  intro a b w _ _
  rw [valueOperand_eq, valueOperand_eq, outputsOf_add_unsigned]

/-- Settles O2: the sum of the signed readings, checked and wrapped at the width. -/
theorem addSignedComputes : Obligations.AddSignedComputes := by
  unfold Obligations.AddSignedComputes
  refine computesAs_of_unit (sg := .signed) (op := 0) (by decide) (fun _ => rfl) (fun _ _ _ => rfl) ?_
  intro a b w hpos hle
  rw [signedOperand_eq a w hpos, signedOperand_eq b w hpos, outputsOf_rangedResult_signed _ hpos hle, ofInt_toInt_add]

/-- Settles O3: the difference of the masked operands, checked at the width. -/
theorem subUnsignedComputes : Obligations.SubUnsignedComputes := by
  unfold Obligations.SubUnsignedComputes
  refine computesAs_of_unit (sg := .unsigned) (op := 1) (by decide) (fun _ => rfl) (fun _ _ _ => rfl) ?_
  intro a b w _ _
  rw [valueOperand_eq, valueOperand_eq, outputsOf_sub_unsigned]

/-- Settles O4: the difference of the signed readings, checked and wrapped at the width. -/
theorem subSignedComputes : Obligations.SubSignedComputes := by
  unfold Obligations.SubSignedComputes
  refine computesAs_of_unit (sg := .signed) (op := 1) (by decide) (fun _ => rfl) (fun _ _ _ => rfl) ?_
  intro a b w hpos hle
  rw [signedOperand_eq a w hpos, signedOperand_eq b w hpos, outputsOf_rangedResult_signed _ hpos hle, ofInt_toInt_sub]

end Sys2Proof.Proofs.AdderRules

/-! PROOFS of the family 42_multiplier: the two rows of the multiplier (R95, R96). First the wrapped product of each
reading of the operands, then the rows, through the range checks and the row lemma of the adder's family. -/

namespace Sys2Proof.Proofs.MultiplierRules

open Sys2Proof Sys2Proof.Machine Sys2Proof.Claims Sys2Proof.Proofs.AdderRules

/-! ## The wrapped product -/

section Wrapped

variable {w : Nat} (x y : BitVec w)

/-- The low `w` bits of the exact product of the patterns are the product of the vectors (R95). -/
theorem ofInt_toNat_mul : BitVec.ofInt w (x.toNat * y.toNat) = x * y := by
  rw [BitVec.ofInt_mul, ofInt_toNat_cast, ofInt_toNat_cast]

/-- The product of the signed readings wraps to the same vector as that of the patterns (R96). -/
theorem ofInt_toInt_mul : BitVec.ofInt w (x.toInt * y.toInt) = x * y := by
  rw [BitVec.ofInt_mul, BitVec.ofInt_toInt, BitVec.ofInt_toInt]

/-- A product of patterns exceeds the maximum or fits, and is never below 0 (R95). -/
theorem outputsOf_mul_unsigned :
    outputsOf (rangedResult (checkUnsigned (x.toNat * y.toNat) w) .unsigned w) =
      { r := (x * y).setWidth 32, rem := 0, ovf := decide (2 ^ w ≤ x.toNat * y.toNat), unf := false, dbz := false,
        err := false } := by
  have hovf : ((2 ^ w : Nat) : Int) ≤ x.toNat * y.toNat ↔ 2 ^ w ≤ x.toNat * y.toNat := by norm_cast
  have hunf : ¬ ((x.toNat : Int) * y.toNat < 0) := not_lt.mpr (by positivity)
  rw [outputsOf_rangedResult_unsigned, ofInt_toNat_mul, decide_eq_decide.mpr hovf, decide_eq_false hunf]

end Wrapped

/-! ## The two rows -/

/-- Settles O5: the exact product of the masked operands, checked at the width. -/
theorem mulUnsignedComputes : Obligations.MulUnsignedComputes := by
  unfold Obligations.MulUnsignedComputes
  refine computesAs_of_unit (sg := .unsigned) (op := 2) (by decide) (fun _ => rfl) (fun _ _ _ => rfl) ?_
  intro a b w _ _
  rw [valueOperand_eq, valueOperand_eq, outputsOf_mul_unsigned]

/-- Settles O6: the exact product of the signed readings, checked and wrapped at the width. -/
theorem mulSignedComputes : Obligations.MulSignedComputes := by
  unfold Obligations.MulSignedComputes
  refine computesAs_of_unit (sg := .signed) (op := 2) (by decide) (fun _ => rfl) (fun _ _ _ => rfl) ?_
  intro a b w hpos hle
  rw [signedOperand_eq a w hpos, signedOperand_eq b w hpos, outputsOf_rangedResult_signed _ hpos hle, ofInt_toInt_mul]

end Sys2Proof.Proofs.MultiplierRules

/-! PROOFS of the family 43_divider: the two rows of the divider (R100, R101), and where DBZ is 1 (R104). First the zero
test in each reading of the divisor, then the patterns and flags of a quotient and remainder, then the rows, through the
row lemma of the adder's family; last the zero divisor, through the flag table of R28. -/

namespace Sys2Proof.Proofs.DividerRules

open Sys2Proof Sys2Proof.Machine Sys2Proof.Claims Sys2Proof.Proofs.StateRules Sys2Proof.Proofs.AdderRules

section Vectors

variable {w : Nat} (x y : BitVec w)

/-! ## The zero test -/

theorem toNat_eq_zero_iff : y.toNat = 0 ↔ y = 0 := by
  simp [← BitVec.toNat_inj]

/-- The signed reading of a divisor is 0 exactly if its pattern is (R101). -/
theorem toInt_eq_zero_iff : y.toInt = 0 ↔ y = 0 := by
  simp [← BitVec.toInt_inj]

/-! ## Quotient and remainder -/

/-- The floored quotient of two patterns is the quotient of the vectors, and needs no wrap (R100). -/
theorem normTo_fdiv_toNat : normTo (Int.fdiv x.toNat y.toNat) w = (x / y).toNat := by
  rw [← Int.ofNat_fdiv, ← BitVec.toNat_udiv, normTo_natCast, Nat.mod_eq_of_lt (x / y).isLt]

/-- The floored remainder of two patterns is the remainder of the vectors, and needs no wrap (R100). -/
theorem normTo_fmod_toNat : normTo (Int.fmod x.toNat y.toNat) w = (x % y).toNat := by
  rw [← Int.ofNat_fmod, ← BitVec.toNat_umod, normTo_natCast, Nat.mod_eq_of_lt (x % y).isLt]

/-- A quotient of patterns is never negative: the defensive check of R100 does not fire. -/
theorem not_fdiv_toNat_neg : ¬ Int.fdiv x.toNat y.toNat < 0 :=
  (Int.fdiv_nonneg (Int.natCast_nonneg _) (Int.natCast_nonneg _)).not_gt

/-- The pattern of the signed remainder is that of the vectors' `smod` (R101). -/
theorem toPattern_fmod_toInt : toPattern (Int.fmod x.toInt y.toInt) w = (x.smod y).toNat := by
  rw [toPattern, normTo_eq_ofInt, smod_eq_ofInt_fmod]

/-- The range check of the signed quotient: the wrapped quotient, OVF for the minimum by -1, UNF never (R101, R103). -/
theorem checkSigned_fdiv (hw : 0 < w) (hy : y.toInt ≠ 0) :
    checkSigned (Int.fdiv x.toInt y.toInt) w =
      { pattern := (BitVec.ofInt w (Int.fdiv x.toInt y.toInt)).toNat
        ovf := decide (x.toInt = -(2 ^ (w - 1)) ∧ y.toInt = -1)
        unf := false } := by
  obtain ⟨hovf, hunf⟩ := checkSigned_fdiv_flags hw x hy
  have hpattern : (checkSigned (Int.fdiv x.toInt y.toInt) w).pattern = normTo (Int.fdiv x.toInt y.toInt) w := by
    rw [checkSigned_spec _ _ hw]
  rw [← normTo_eq_ofInt, ← hpattern, ← hovf, ← hunf]

end Vectors

/-! ## The two rows -/

/-- Settles O7: the zero test on the masked divisor, then the quotient and remainder of the masked operands. -/
theorem divUnsignedComputes : Obligations.DivUnsignedComputes := by
  unfold Obligations.DivUnsignedComputes
  refine computesAs_of_unit (sg := .unsigned) (op := 3) (by decide) (fun _ => rfl) (fun _ _ _ => rfl) ?_
  intro a b w _ _
  simp only [valueOperand_eq, toNat_eq_zero_iff]
  split
  · rfl
  · rw [normTo_fdiv_toNat, normTo_fmod_toNat, present_unsigned, present_unsigned,
      decide_eq_false (not_fdiv_toNat_neg _ _)]
    rfl

/-- Settles O8: the zero test, then the floored quotient, checked and wrapped at the width, and the remainder with the
divisor's sign. -/
theorem divSignedComputes : Obligations.DivSignedComputes := by
  unfold Obligations.DivSignedComputes
  refine computesAs_of_unit (sg := .signed) (op := 3) (by decide) (fun _ => rfl) (fun _ _ _ => rfl) ?_
  intro a b w hpos hle
  simp only [signedOperand_eq _ _ hpos, Config.t64, quotient, remainder, toPattern_fmod_toInt, present_signed _ hle]
  by_cases hzero : (b.setWidth w).toInt = 0
  · rw [if_pos hzero, if_pos ((toInt_eq_zero_iff _).mp hzero)]
    rfl
  · rw [if_neg hzero, if_neg (mt (toInt_eq_zero_iff _).mpr hzero), checkSigned_fdiv _ _ hpos hzero,
      present_signed _ hle]
    rfl

/-! ## The zero divisor (R104) -/

/-- The instruction is a legal DIV, and the low bits of its divisor are 0 (R104). -/
def DividesByZero (i : Instr) (b : Word) : Prop :=
  i.isDiv = true ∧ i.wellFormed = true ∧ b.toNat % 2 ^ i.width.toNat = 0

/-- A masked divisor is 0 exactly if its low `w` bits are. -/
theorem mod_two_pow_eq_zero_iff (b : Word) (w : Nat) : b.toNat % 2 ^ w = 0 ↔ b.setWidth w = 0 := by
  rw [← toNat_eq_zero_iff, BitVec.toNat_setWidth]

/-- An instruction that has a result is a legal one (30_encoding R53, R58). -/
theorem wellFormed_of_evalInstr_ok {i : Instr} {a b : Word} {x : Result}
    (h : evalInstr Config.t64 i a b = .ok x) : i.wellFormed = true := by
  rw [Instr.wellFormed, ← widthIsLegal_eq_wellFormed]
  by_contra hillegal
  rw [evalInstr_of_illegal _ _ _ _ (Bool.eq_false_iff.mpr hillegal)] at h
  cases h

/-- Both divisions test the divisor before they compute anything, so the dividend and S do not enter (R104). -/
theorem evalInstr_of_dividesByZero {i : Instr} {b : Word} (h : DividesByZero i b) (a : Word) :
    evalInstr Config.t64 i a b = divideByZero := by
  obtain ⟨hdiv, hlegal, hzero⟩ := h
  rw [Instr.wellFormed, ← widthIsLegal_eq_wellFormed] at hlegal
  rw [mod_two_pow_eq_zero_iff] at hzero
  cases i with
  | divU width =>
    refine (atWidth_of_legal _ _ _ hlegal).trans (if_pos ?_)
    exact (valueOperand_eq b width.toNat).trans ((toNat_eq_zero_iff _).mpr hzero)
  | divS width =>
    refine (atWidth_of_legal _ _ _ hlegal).trans (if_pos ?_)
    exact (signedOperand_eq b _ (width_bounds_of_legal hlegal).1).trans ((toInt_eq_zero_iff _).mpr hzero)
  | addU | addS | subU | subS | mulU | mulS | and | or | xor | not | shl | shr | sar => cases hdiv

/-- The table of R28 sets DBZ for the two divisions alone, and there for a zero divisor alone. -/
theorem flagTable_dbz_iff (i : Instr) (a b : Word) :
    (flagTable i a b).2.2 = true ↔ i.isDiv = true ∧ b.setWidth i.width.toNat = 0 := by
  cases i with
  | divU width =>
    have hzero : ((b.setWidth width.toNat).toNat : Int) = 0 ↔ b.setWidth width.toNat = 0 :=
      Int.natCast_eq_zero.trans (toNat_eq_zero_iff _)
    exact decide_eq_true_iff.trans (hzero.trans (and_iff_right rfl).symm)
  | divS width => exact decide_eq_true_iff.trans ((toInt_eq_zero_iff _).trans (and_iff_right rfl).symm)
  | addU | addS | subU | subS | mulU | mulS | and | or | xor | not | shl | shr | sar =>
    simp [flagTable, Instr.isDiv]

/-- A result with DBZ is that of a legal DIV by zero. -/
theorem dividesByZero_of_dbz {i : Instr} {a b : Word} {x : Result} (h : evalInstr Config.t64 i a b = .ok x)
    (hdbz : x.dbz = true) : DividesByZero i b := by
  have htable : (flagTable i a b).2.2 = true := by rw [← evalInstr_flags h]; exact hdbz
  obtain ⟨hdiv, hzero⟩ := (flagTable_dbz_iff i a b).mp htable
  exact ⟨hdiv, wellFormed_of_evalInstr_ok h, (mod_two_pow_eq_zero_iff _ _).mpr hzero⟩

/-- Settles O47: a legal DIV by zero drives the tuple of R104, and DBZ on the ports comes from nothing else. -/
theorem dbzExactlyOnZeroDivisor : Obligations.DbzExactlyOnZeroDivisor := by
  unfold Obligations.DbzExactlyOnZeroDivisor
  intro i s t h
  have htuple (hzero : DividesByZero i s.inp.b) : t.out = zeroDivideTuple := by
    rw [(exec_next_iff i s t).mp h, driveOutputs_out, evalInstr_of_dividesByZero hzero]
    rfl
  have honly (hdbz : t.out.dbz = true) : DividesByZero i s.inp.b := by
    rcases exec_next_cases h with ⟨x, hx, ht⟩ | ht
    · rw [ht, resultOutputs_dbz] at hdbz
      exact dividesByZero_of_dbz hx hdbz
    · rw [ht] at hdbz
      cases hdbz
  exact ⟨⟨honly, fun hzero => by rw [htuple hzero]; rfl⟩, fun hdbz => htuple (honly hdbz)⟩

end Sys2Proof.Proofs.DividerRules

/-! PROOFS of the family 44_bitwise: the four rows of the bitwise ALU (R110 to R113), each for both values of S. First the
outputs of an operation that sets no flag, and the masks around it, as facts about `w`-bit vectors; then the rows, through
the row lemma of the adder's family. -/

namespace Sys2Proof.Proofs.BitwiseRules

open Sys2Proof Sys2Proof.Machine Sys2Proof.Claims Sys2Proof.Proofs.AdderRules

section Vectors

variable {w : Nat} (x : BitVec w)

/-! ## The outputs of a pattern -/

/-- S selects the extension of the pattern's vector on a result port, and nothing else (30_encoding R52;
40_sign_converter R76). -/
theorem present_eq_extend (sg : Signedness) (hw : w ≤ 32) : present x.toNat sg w = extend sg x := by
  cases sg with
  | unsigned => exact present_unsigned x
  | signed => exact present_signed x hw

/-- The outputs of an operation that sets no flag and drives REM with 0 (R116). -/
theorem outputsOf_plainResult (sg : Signedness) (hw : w ≤ 32) :
    outputsOf (plainResult x.toNat sg w) = plainTuple (extend sg x) := by
  rw [← present_eq_extend x sg hw]
  rfl

/-- The mask on a result of masked operands changes nothing (R110). -/
theorem toNat_and_mask : x.toNat &&& mask w = x.toNat :=
  and_mask_of_lt _ _ x.isLt

end Vectors

/-! ## The four rows -/

/-- Settles O9: the AND of the masked operands' patterns is the pattern of the vectors' AND. -/
theorem andComputes : Obligations.AndComputes := by
  unfold Obligations.AndComputes
  intro sg
  refine computesAs_of_unit (op := 4) (by decide) (fun _ => rfl) (fun _ _ _ => rfl) ?_
  intro a b w _ hle
  rw [valueOperand_eq, valueOperand_eq, ← BitVec.toNat_and, toNat_and_mask, outputsOf_plainResult _ _ hle]

/-- Settles O10: the OR of the masked operands' patterns is the pattern of the vectors' OR. -/
theorem orComputes : Obligations.OrComputes := by
  unfold Obligations.OrComputes
  intro sg
  refine computesAs_of_unit (op := 5) (by decide) (fun _ => rfl) (fun _ _ _ => rfl) ?_
  intro a b w _ hle
  rw [valueOperand_eq, valueOperand_eq, ← BitVec.toNat_or, toNat_and_mask, outputsOf_plainResult _ _ hle]

/-- Settles O11: the exclusive OR of the masked operands' patterns is the pattern of the vectors' exclusive OR. -/
theorem xorComputes : Obligations.XorComputes := by
  unfold Obligations.XorComputes
  intro sg
  refine computesAs_of_unit (op := 6) (by decide) (fun _ => rfl) (fun _ _ _ => rfl) ?_
  intro a b w _ hle
  rw [valueOperand_eq, valueOperand_eq, ← BitVec.toNat_xor, toNat_and_mask, outputsOf_plainResult _ _ hle]

/-- Settles O12: the evaluation takes the complement of the masked A on the integers and reduces it to the width; B does
not enter the unit. -/
theorem notComputes : Obligations.NotComputes := by
  unfold Obligations.NotComputes
  intro sg
  refine computesAs_of_unit (op := 7) (by decide) (fun _ => rfl) (fun _ _ _ => rfl) ?_
  intro a _ w _ hle
  rw [valueOperand_eq, normTo_complement, outputsOf_plainResult _ _ hle]

end Sys2Proof.Proofs.BitwiseRules

/-! PROOFS of the family 45_shifter: the three rows of the shifter (R121 to R123), each for both values of S, and the two
right shifts compared bit by bit (R124, R125). First what a shift does at a legal WIDTH and an amount that is not
negative; then the rows; then the bits of the two right shifts and of their presentations, from which R124 and R125
follow. -/

namespace Sys2Proof.Proofs.ShifterRules

open Sys2Proof Sys2Proof.Machine Sys2Proof.Claims Sys2Proof.Proofs.StateRules Sys2Proof.Proofs.SignConverterRules
  Sys2Proof.Proofs.AdderRules Sys2Proof.Proofs.BitwiseRules

/-! ## A shift at a legal WIDTH and amount -/

/-- The amount check passes all of B on when its sign bit is clear (R120). -/
theorem withAmount_of_nonneg {b : Word} (hb : b.getLsbD 31 = false) (unit : Nat → Evaluation) :
    withAmount b unit = unit b.toNat := by
  have hnonneg : ¬ b.toInt < 0 := by rw [toInt_neg_iff, hb]; exact Bool.false_ne_true
  rw [withAmount_eq, if_neg hnonneg]

/-- A row whose evaluation is the two checks and then a pattern on R does what the vectors' shift says: both checks pass,
and the row drives the outputs alone (30_encoding R55). -/
theorem shiftsAs_of_pattern {row : WidthField → Instr} {sg : Signedness} {op : Nat}
    {pattern : Word → Nat → Nat → Nat} {shift : ∀ {w : Nat}, BitVec w → Nat → BitVec w} (hop : op < 16)
    (hrow : ∀ width, decodeOp op sg width = .ok (row width))
    (heval : ∀ width a b, evalInstr Config.t64 (row width) a b =
      atWidth Config.t64 width fun w => withAmount b fun n => plainResult (pattern a w n) sg w)
    (hpattern : ∀ a w n, 0 < w → pattern a w n = (shift (a.setWidth w) n).toNat) :
    ShiftsAs row (sBit sg * 16 + op) fun w a n => extend sg (shift (a.setWidth w) n) := by
  intro width w s h hb
  have hlegal := widthIsLegal_of_legalWidth h
  obtain ⟨hpos, hle⟩ := width_bounds_of_legal hlegal
  obtain ⟨rfl, -⟩ := h
  refine ⟨(decode_fields width sg hop).trans (hrow width), ?_⟩
  rw [exec_eq_answer, answer_eq, heval, atWidth_of_legal _ _ _ hlegal, withAmount_of_nonneg hb, hpattern _ _ _ hpos,
    outputsOf_plainResult _ sg hle]

/-! ## The three rows -/

/-- Settles O13: with `P_SHL_OVF = 0` no flag is left in the evaluation, and the masked product by a power of two is the
vector's shift. -/
theorem shlComputes : Obligations.ShlComputes := by
  unfold Obligations.ShlComputes
  intro sg
  refine shiftsAs_of_pattern (op := 8) (shift := fun x n => x <<< n) (by decide) (fun _ => rfl) (fun _ _ _ => rfl) ?_
  intro a w n _
  rw [valueOperand_eq, normTo_shiftLeft]

/-- Settles O14: the floored quotient of the masked operand is the vector's logical shift. -/
theorem shrComputes : Obligations.ShrComputes := by
  unfold Obligations.ShrComputes
  intro sg
  refine shiftsAs_of_pattern (op := 9) (shift := fun x n => x >>> n) (by decide) (fun _ => rfl) (fun _ _ _ => rfl) ?_
  intro a w n _
  rw [valueOperand_eq, normTo_shiftRight]

/-- Settles O15: the floored quotient of the operand read as two's-complement is the vector's arithmetic shift. -/
theorem sarComputes : Obligations.SarComputes := by
  unfold Obligations.SarComputes
  intro sg
  refine shiftsAs_of_pattern (op := 10) (shift := BitVec.sshiftRight) (by decide) (fun _ => rfl) (fun _ _ _ => rfl) ?_
  intro a w n hpos
  rw [signedOperand_eq a w hpos, normTo_arithmeticShiftRight]

/-! ## The bits of a presentation (40_sign_converter R76) -/

section Presentation

variable {w : Nat} (x : BitVec w) (sg : Signedness)

theorem extend_getLsbD_of_lt (hw : w ≤ 32) {k : Nat} (hk : k < w) : (extend sg x).getLsbD k = x.getLsbD k := by
  have hk32 : k < 32 := by omega
  rw [← present_eq_extend x sg hw]
  cases sg with
  | unsigned => rw [present_unsigned_getLsbD x hk32, decide_eq_true hk, Bool.true_and]
  | signed => rw [present_signed_getLsbD x hw hk32, min_eq_left (Nat.le_sub_one_of_lt hk)]

/-- The pattern can be read back from the port it is presented on (40_sign_converter R79). -/
theorem setWidth_extend (hw : w ≤ 32) : (extend sg x).setWidth w = x := by
  apply BitVec.eq_of_getLsbD_eq
  intro k hk
  rw [BitVec.getLsbD_setWidth, extend_getLsbD_of_lt x sg hw hk, decide_eq_true hk, Bool.true_and]

/-- Above the pattern the port carries 0 for S = 0 and the pattern's sign bit for S = 1. -/
theorem extend_getLsbD_of_ge (hpos : 0 < w) {k : Nat} (hwk : w ≤ k) (hk : k < 32) :
    (extend sg x).getLsbD k = (sg == .signed && (extend sg x).getLsbD (w - 1)) := by
  have hw : w ≤ 32 := by omega
  rw [extend_getLsbD_of_lt x sg hw (Nat.sub_one_lt hpos.ne'), ← present_eq_extend x sg hw]
  cases sg with
  | unsigned =>
    rw [present_unsigned_getLsbD x hk, decide_eq_false (not_lt.mpr hwk)]
    rfl
  | signed =>
    rw [present_signed_getLsbD x hw hk, min_eq_right (by omega)]
    rfl

/-- S makes no difference to a pattern whose sign bit is clear. -/
theorem extend_signed_of_sign_clear (hx : x.getLsbD (w - 1) = false) : extend .signed x = extend .unsigned x :=
  BitVec.signExtend_eq_setWidth_of_msb_false (by rw [BitVec.msb_eq_getLsbD_last, hx])

end Presentation

/-! ## The two right shifts, bit by bit -/

section RightShifts

variable (a : Word) (w n : Nat)

/-- SHR takes bit `k + n` of the masked operand, and 0 from the left (R122). -/
theorem ushiftRight_setWidth_getLsbD (k : Nat) :
    ((a.setWidth w) >>> n).getLsbD k = (decide (k + n < w) && a.getLsbD (k + n)) := by
  rw [BitVec.getLsbD_ushiftRight, BitVec.getLsbD_setWidth, Nat.add_comm n k]

/-- SAR takes bit `k + n` of the masked operand, and copies of bit `w - 1` from the left (R123). -/
theorem sshiftRight_setWidth_getLsbD {k : Nat} (hk : k < w) :
    ((a.setWidth w).sshiftRight n).getLsbD k = a.getLsbD (min (k + n) (w - 1)) := by
  rw [BitVec.getLsbD_sshiftRight, BitVec.msb_eq_getLsbD_last, BitVec.getLsbD_setWidth, BitVec.getLsbD_setWidth,
    Nat.add_comm n k]
  by_cases hin : k + n < w
  · rw [min_eq_left (Nat.le_sub_one_of_lt hin)]
    simp [hin, hk]
  · rw [min_eq_right (by omega : w - 1 ≤ k + n)]
    simp [hin, hk, Nat.zero_lt_of_lt hk]

/-- The sign bit of a zero-filled pattern is set only if nothing is shifted and the operand's sign bit is set (R124). -/
theorem ushiftRight_sign_set (h : ((a.setWidth w) >>> n).getLsbD (w - 1) = true) :
    n = 0 ∧ a.getLsbD (w - 1) = true := by
  rw [ushiftRight_setWidth_getLsbD, Bool.and_eq_true, decide_eq_true_eq] at h
  obtain ⟨hlt, hbit⟩ := h
  obtain rfl : n = 0 := by omega
  exact ⟨rfl, hbit⟩

/-- The bits that come from the operand, all but the top `min n w`, are the same in both shifts (R125). -/
theorem rightShifts_agree_of_lt {k : Nat} (hk : k + n < w) :
    ((a.setWidth w) >>> n).getLsbD k = ((a.setWidth w).sshiftRight n).getLsbD k := by
  rw [ushiftRight_setWidth_getLsbD, sshiftRight_setWidth_getLsbD a w n (by omega), decide_eq_true hk, Bool.true_and,
    min_eq_left (Nat.le_sub_one_of_lt hk)]

/-- The bits that enter from the left, the top `min n w`, are 0 for SHR and the sign bit for SAR (R125). -/
theorem rightShifts_fill_of_ge {k : Nat} (hk : k < w) (hfill : w ≤ k + n) :
    ((a.setWidth w) >>> n).getLsbD k = false ∧
      ((a.setWidth w).sshiftRight n).getLsbD k = a.getLsbD (w - 1) := by
  rw [ushiftRight_setWidth_getLsbD, sshiftRight_setWidth_getLsbD a w n hk, decide_eq_false (not_lt.mpr hfill),
    min_eq_right (by omega)]
  exact ⟨rfl, rfl⟩

/-- With the sign bit clear both kinds of right shift fill with 0 (R125). -/
theorem ushiftRight_eq_sshiftRight_of_sign_clear (h : a.getLsbD (w - 1) = false) :
    (a.setWidth w) >>> n = (a.setWidth w).sshiftRight n := by
  apply BitVec.eq_of_getLsbD_eq
  intro k hk
  by_cases hin : k + n < w
  · exact rightShifts_agree_of_lt a w n hin
  · obtain ⟨hshr, hsar⟩ := rightShifts_fill_of_ge a w n hk (not_lt.mp hin)
    rw [hshr, hsar, h]

end RightShifts

/-! ## The kind of right shift and S (R124, R125) -/

theorem bounds_of_legalWidth {width : WidthField} {w : Nat} (h : LegalWidth width w) : 0 < w ∧ w ≤ 32 := by
  obtain ⟨-, hw⟩ := h
  omega

theorem exec_shr {width : WidthField} {w : Nat} {s : State} (sg : Signedness) (h : LegalWidth width w)
    (hb : s.inp.b.getLsbD 31 = false) :
    exec (.shr sg width) s =
      .next { s with out := plainTuple (extend sg ((s.inp.a.setWidth w) >>> s.inp.b.toNat)) } :=
  (shrComputes sg width w s h hb).2

theorem exec_sar {width : WidthField} {w : Nat} {s : State} (sg : Signedness) (h : LegalWidth width w)
    (hb : s.inp.b.getLsbD 31 = false) :
    exec (.sar sg width) s =
      .next { s with out := plainTuple (extend sg ((s.inp.a.setWidth w).sshiftRight s.inp.b.toNat)) } :=
  (sarComputes sg width w s h hb).2

/-- Settles O53: the rows of SHR and SAR, read bit by bit. -/
theorem opcodeAloneSelectsTheShift : Obligations.OpcodeAloneSelectsTheShift := by
  unfold Obligations.OpcodeAloneSelectsTheShift
  intro width w s hlegal hb
  obtain ⟨hpos, hle⟩ := bounds_of_legalWidth hlegal
  refine ⟨fun sg => ⟨_, _, exec_shr sg hlegal hb, exec_sar sg hlegal hb, ?_, ?_⟩, ?_⟩
  · intro k hk
    exact ⟨(extend_getLsbD_of_lt _ sg hle hk).trans (ushiftRight_setWidth_getLsbD _ w _ k),
      (extend_getLsbD_of_lt _ sg hle hk).trans (sshiftRight_setWidth_getLsbD _ w _ hk)⟩
  · intro k hwk hk
    exact ⟨extend_getLsbD_of_ge _ sg hpos hwk hk, extend_getLsbD_of_ge _ sg hpos hwk hk⟩
  · intro hne
    have hsign : ((s.inp.a.setWidth w) >>> s.inp.b.toNat).getLsbD (w - 1) = true := by
      by_contra hclear
      apply hne
      rw [exec_shr _ hlegal hb, exec_shr _ hlegal hb,
        extend_signed_of_sign_clear _ (Bool.eq_false_of_not_eq_true hclear)]
    obtain ⟨hzero, hmsb⟩ := ushiftRight_sign_set _ w _ hsign
    exact ⟨BitVec.eq_of_toNat_eq hzero, hmsb⟩

/-- Settles O54: each bit of a pattern comes from the operand, or is one of the `min n w` that enter from the left. -/
theorem rightShiftsDiverge : Obligations.RightShiftsDiverge := by
  unfold Obligations.RightShiftsDiverge
  intro sg sg' width w s hlegal hb _
  obtain ⟨-, hle⟩ := bounds_of_legalWidth hlegal
  refine ⟨_, _, exec_shr sg hlegal hb, exec_sar sg' hlegal hb, ?_, ?_⟩
  · intro hclear
    simp only [plainTuple, setWidth_extend _ _ hle]
    exact ushiftRight_eq_sshiftRight_of_sign_clear _ w _ hclear
  · intro hset k hk
    simp only [plainTuple, extend_getLsbD_of_lt _ _ hle hk]
    split
    · obtain ⟨hshr, hsar⟩ := rightShifts_fill_of_ge s.inp.a w s.inp.b.toNat hk (by omega)
      exact ⟨hshr, hsar.trans hset⟩
    · exact rightShifts_agree_of_lt _ w _ (by omega)

end Sys2Proof.Proofs.ShifterRules

/-! PROOFS of the family 60_exceptions: the four causes of `InvalidArgument` (R131) and the error outcome (R133). First
the decoder in the words of R131, then what an evaluation gives under each cause and under none, in the order of the
validation (R136), then ERR as the sign that it raised. -/

namespace Sys2Proof.Proofs.ExceptionRules

open Sys2Proof Sys2Proof.Machine Sys2Proof.Claims Sys2Proof.Proofs.EncodingRules

section Causes

variable {cmd : CmdWord}

/-! ## The decoder in the words of R131 -/

theorem decode_of_reservedBits (hrsv : HasReservedBits cmd) : decode cmd = .error .reservedBits := by
  rw [decode, if_pos (mt (rsvField_eq_zero_iff cmd).mp hrsv)]

/-- Past the check of RSV, OP and S name the row and WIDTH is carried along (30_encoding R51, R54). -/
theorem decode_eq_decodeOp (hrsv : ¬ HasReservedBits cmd) :
    decode cmd = decodeOp (cmd.toNat % 16) (sField cmd) (widthField cmd) := by
  rw [decode, if_neg (not_not.mpr ((rsvField_eq_zero_iff cmd).mpr (not_not.mp hrsv))), opField_toNat]

theorem decode_of_reservedOpcode (hrsv : ¬ HasReservedBits cmd) (hop : HasReservedOpcode cmd) :
    decode cmd = .error .reservedOpcode := by
  rw [decode_eq_decodeOp hrsv]
  rcases decodeOp_spec (cmd.toNat % 16) (sField cmd) (widthField cmd) with ⟨-, hreject⟩ | ⟨hle, -⟩
  · exact hreject
  · exact absurd hop hle.not_gt

theorem decode_of_not_reserved (hrsv : ¬ HasReservedBits cmd) (hop : ¬ HasReservedOpcode cmd) :
    ∃ i, decode cmd = .ok i ∧ i.width = widthField cmd ∧ (i.isShift = true ↔ 8 ≤ cmd.toNat % 16) := by
  rw [decode_eq_decodeOp hrsv]
  rcases decodeOp_spec (cmd.toNat % 16) (sField cmd) (widthField cmd) with ⟨hgt, -⟩ | ⟨-, hrow⟩
  · exact absurd hgt hop
  · exact hrow

theorem widthIsLegal_iff_not_hasIllegalWidth (cmd : CmdWord) :
    widthIsLegal Config.t64 (widthField cmd) = true ↔ ¬ HasIllegalWidth cmd := by
  rw [widthIsLegal_t64, widthField_toNat, HasIllegalWidth]
  omega

/-! ## An evaluation under each cause, and under none (R131, R136) -/

theorem eval_of_reservedBits (a b : Word) (hrsv : HasReservedBits cmd) :
    eval Config.t64 cmd a b = .error (.invalidArgument .reservedBits) := by
  rw [eval, decode_of_reservedBits hrsv]
  rfl

theorem eval_of_reservedOpcode (a b : Word) (hrsv : ¬ HasReservedBits cmd) (hop : HasReservedOpcode cmd) :
    eval Config.t64 cmd a b = .error (.invalidArgument .reservedOpcode) := by
  rw [eval, decode_of_reservedOpcode hrsv hop]
  rfl

theorem eval_of_illegalWidth (a b : Word) (hrsv : ¬ HasReservedBits cmd) (hop : ¬ HasReservedOpcode cmd)
    (hwidth : HasIllegalWidth cmd) : eval Config.t64 cmd a b = .error (.invalidArgument .bitWidth) := by
  obtain ⟨i, hi, hiwidth, -⟩ := decode_of_not_reserved hrsv hop
  have hillegal : widthIsLegal Config.t64 i.width = false := by
    rw [hiwidth, Bool.eq_false_iff, ne_eq, widthIsLegal_iff_not_hasIllegalWidth, not_not]
    exact hwidth
  rw [eval, hi]
  exact evalInstr_of_illegal _ i a b hillegal

theorem eval_of_negativeShift (a : Word) {b : Word} (hrsv : ¬ HasReservedBits cmd) (hop : ¬ HasReservedOpcode cmd)
    (hwidth : ¬ HasIllegalWidth cmd) (hshift : HasNegativeShift cmd b) :
    eval Config.t64 cmd a b = .error (.invalidArgument .negativeShift) := by
  obtain ⟨i, hi, hiwidth, hishift⟩ := decode_of_not_reserved hrsv hop
  have hlegal := (widthIsLegal_iff_not_hasIllegalWidth cmd).mpr hwidth
  obtain ⟨hge, -, hsign⟩ := hshift
  rw [eval, hi]
  exact evalInstr_of_negative _ i a b (hiwidth ▸ hlegal) (hishift.mpr hge) hsign

/-- No other value of A or B raises: past the four causes there is a result. -/
theorem eval_of_no_cause (a : Word) {b : Word} (hrsv : ¬ HasReservedBits cmd) (hop : ¬ HasReservedOpcode cmd)
    (hwidth : ¬ HasIllegalWidth cmd) (hshift : ¬ HasNegativeShift cmd b) :
    ∃ x, eval Config.t64 cmd a b = .ok x := by
  obtain ⟨i, hi, hiwidth, hishift⟩ := decode_of_not_reserved hrsv hop
  have hlegal := (widthIsLegal_iff_not_hasIllegalWidth cmd).mpr hwidth
  have hamount (his : i.isShift = true) : b.getLsbD 31 = false :=
    Bool.eq_false_iff.mpr fun hsign => hshift ⟨hishift.mp his, not_lt.mp hop, hsign⟩
  rw [eval, hi]
  exact evalInstr_has_result _ i a b (hiwidth ▸ hlegal) hamount

theorem eval_raises_iff (cmd : CmdWord) (a b : Word) :
    (∃ cause, eval Config.t64 cmd a b = .error (.invalidArgument cause)) ↔
      HasReservedBits cmd ∨ HasReservedOpcode cmd ∨ HasIllegalWidth cmd ∨ HasNegativeShift cmd b := by
  by_cases hrsv : HasReservedBits cmd
  · exact iff_of_true ⟨_, eval_of_reservedBits a b hrsv⟩ (.inl hrsv)
  by_cases hop : HasReservedOpcode cmd
  · exact iff_of_true ⟨_, eval_of_reservedOpcode a b hrsv hop⟩ (.inr (.inl hop))
  by_cases hwidth : HasIllegalWidth cmd
  · exact iff_of_true ⟨_, eval_of_illegalWidth a b hrsv hop hwidth⟩ (.inr (.inr (.inl hwidth)))
  by_cases hshift : HasNegativeShift cmd b
  · exact iff_of_true ⟨_, eval_of_negativeShift a hrsv hop hwidth hshift⟩ (.inr (.inr (.inr hshift)))
  · obtain ⟨x, hx⟩ := eval_of_no_cause a hrsv hop hwidth hshift
    exact iff_of_false (by simp [hx]) (by simp [hrsv, hop, hwidth, hshift])

end Causes

/-! ## ERR and the error outcome (R133) -/

theorem outputsOf_err_iff (e : Evaluation) :
    (outputsOf e).err = true ↔ ∃ cause, e = .error (.invalidArgument cause) := by
  cases e with
  | ok x => simp
  | error f =>
    obtain ⟨cause⟩ := f
    exact iff_of_true rfl ⟨cause, rfl⟩

theorem outputsOf_eq_errorTuple {e : Evaluation} (herr : (outputsOf e).err = true) : outputsOf e = errorTuple := by
  obtain ⟨cause, rfl⟩ := (outputsOf_err_iff e).mp herr
  rfl

/-- Settles O25: the validation stops at the first of the four causes, and only the error outcome drives ERR. -/
theorem errExactlyOnInvalidArgument : Obligations.ErrExactlyOnInvalidArgument := by
  unfold Obligations.ErrExactlyOnInvalidArgument
  intro cmd a b
  exact ⟨eval_raises_iff cmd a b, outputsOf_err_iff _, outputsOf_eq_errorTuple⟩

end Sys2Proof.Proofs.ExceptionRules

/-! PROOFS of the family 30_encoding, continued: decoding and encoding are inverse (R50, R51, R54), and the worked words of
R64. A word is its four fields, and an instruction is its row, WIDTH and S; each side of the round trip compares fields. -/

namespace Sys2Proof.Proofs.RoundTripRules

open Sys2Proof Sys2Proof.Machine Sys2Proof.Claims Sys2Proof.Laws.EncodedFields

/-! ## The row of an instruction -/

/-- The value of the field OP in the row of an instruction (30_encoding R54). -/
def opcode : Instr → OpField
  | .addU _ | .addS _ => 0x0
  | .subU _ | .subS _ => 0x1
  | .mulU _ | .mulS _ => 0x2
  | .divU _ | .divS _ => 0x3
  | .and _ _ => 0x4
  | .or _ _ => 0x5
  | .xor _ _ => 0x6
  | .not _ _ => 0x7
  | .shl _ _ => 0x8
  | .shr _ _ => 0x9
  | .sar _ _ => 0xA

theorem encode_eq_commandWord (i : Instr) :
    encode i = commandWord i.width i.signedness ((opcode i).setWidth 16) := by
  cases i <;> rfl

theorem decodeOp_opcode (i : Instr) : decodeOp (opcode i).toNat i.signedness i.width = .ok i := by
  cases i <;> rfl

/-- What decodes from an OP, S and WIDTH has that OP, S and WIDTH. -/
theorem fields_of_decodeOp {op : Nat} {sg : Signedness} {width : WidthField} {i : Instr}
    (h : decodeOp op sg width = .ok i) : (opcode i).toNat = op ∧ i.signedness = sg ∧ i.width = width := by
  unfold decodeOp at h
  split at h <;> cases h <;> exact ⟨rfl, rfl, rfl⟩

/-! ## A word is its fields -/

theorem sBit_sField (cmd : CmdWord) : sBit (sField cmd) = cmd.toNat / 16 % 2 := by
  have hbit : cmd.getLsbD 4 = decide (cmd.toNat / 16 % 2 = 1) := Nat.testBit_eq_decide_div_mod_eq
  rw [sField, hbit]
  rcases Nat.mod_two_eq_zero_or_one (cmd.toNat / 16) with h | h <;> simp [h, sBit]

/-- The number of a word, from the places of its fields (R51). -/
theorem toNat_eq_fields (cmd : CmdWord) :
    cmd.toNat = (rsvField cmd).toNat * 2048 + (widthField cmd).toNat * 32 + sBit (sField cmd) * 16 +
      (opField cmd).toNat := by
  rw [rsvField_toNat, widthField_toNat, sBit_sField, opField_toNat]
  omega

theorem eq_of_fields_eq {cmd cmd' : CmdWord} (hrsv : rsvField cmd = rsvField cmd')
    (hop : opField cmd = opField cmd') (hwidth : widthField cmd = widthField cmd') (hs : sField cmd = sField cmd') :
    cmd = cmd' := by
  apply BitVec.eq_of_toNat_eq
  rw [toNat_eq_fields cmd, toNat_eq_fields cmd', hrsv, hop, hwidth, hs]

/-! ## The round trip -/

/-- Settles O18: the word of an instruction has the fields of its row, and these name the row. -/
theorem decodeOfEncodeIsTheInstruction : Obligations.DecodeOfEncodeIsTheInstruction := by
  unfold Obligations.DecodeOfEncodeIsTheInstruction
  intro i
  obtain ⟨hrsv, hop, hwidth, hs⟩ := commandWord_fields i.width i.signedness (opcode i)
  rw [encode_eq_commandWord, decode, if_neg (not_not.mpr hrsv), hop, hs, hwidth, decodeOp_opcode]

/-- Settles O19: the word of what a word decodes to has the same four fields. -/
theorem encodeOfDecodeIsTheWord : Obligations.EncodeOfDecodeIsTheWord := by
  unfold Obligations.EncodeOfDecodeIsTheWord
  intro cmd i h
  rw [decode] at h
  split at h
  · cases h
  next hrsv =>
    obtain ⟨hop, hs, hwidth⟩ := fields_of_decodeOp h
    obtain ⟨hrsv', hop', hwidth', hs'⟩ := commandWord_fields i.width i.signedness (opcode i)
    rw [encode_eq_commandWord]
    exact eq_of_fields_eq (hrsv'.trans (not_not.mp hrsv).symm) (hop'.trans (BitVec.eq_of_toNat_eq hop))
      (hwidth'.trans hwidth) (hs'.trans hs)

/-- Settles O21: each word of R64 is decoded as it stands, and WIDTH 12 is not in WIDTHS. -/
theorem encodingExamplesDecode : Obligations.EncodingExamplesDecode := by
  unfold Obligations.EncodingExamplesDecode
  exact ⟨by decide, by decide, by decide, by decide, evalInstr_of_illegal _ (.and .unsigned 12) 1 2 (by decide)⟩

end Sys2Proof.Proofs.RoundTripRules

/-! PROOFS about the step and what every step keeps (10_state R26, R28, R33, R34; 30_encoding R55; 60_exceptions R133, R136;
70_reset R151, R154, R157). First a step in each of its two cases, then the invariant, then the exception. -/

namespace Sys2Proof.Proofs.StepRules

open Sys2Proof Sys2Proof.Machine Sys2Proof.Claims Sys2Proof.Proofs.StateRules Sys2Proof.Proofs.MemoryRules
  Sys2Proof.Proofs.AdderRules Sys2Proof.Proofs.DividerRules Sys2Proof.Proofs.ExceptionRules
  Sys2Proof.Proofs.RoundTripRules

/-! ## A step -/

/-- What a next state of a step on defined inputs is. -/
theorem step_next_iff {s t : State} (h : s.inputsDefined = true) :
    step s = .next t ↔ t = driveOutputs (outputsOf (eval Config.t64 s.inp.cmd s.inp.a s.inp.b)) s := by
  rw [step_of_defined h, answer_next_iff]

theorem eval_of_decode {cmd : CmdWord} {i : Instr} (h : decode cmd = .ok i) (cfg : Config) (a b : Word) :
    eval cfg cmd a b = evalInstr cfg i a b := by
  rw [eval, h]

/-- Settles O22: both the step and `exec` answer with the evaluation of the decoded instruction. -/
theorem stepRunsDecodedInstruction : Obligations.StepRunsDecodedInstruction := by
  unfold Obligations.StepRunsDecodedInstruction
  intro s i hdefined hdecode
  rw [step_of_defined hdefined, eval_of_decode hdecode, exec_eq_answer]

/-- Settles O23: an answer is a next state in which the outputs alone have changed. -/
theorem stepIsTheEvaluation : Obligations.StepIsTheEvaluation := by
  unfold Obligations.StepIsTheEvaluation
  intro s hdefined
  rw [step_of_defined hdefined, answer_eq]

/-- Settles O30: such a step drives free values. -/
theorem undefinedInputsStillStep : Obligations.UndefinedInputsStillStep := by
  unfold Obligations.UndefinedInputsStillStep
  intro s hundefined
  rw [step_of_undefined s hundefined]
  exact driveUnspecified_spec s

/-- Settles O24: with the inputs defined or not, a step is a next state that differs in the block's own fields alone. -/
theorem everyStepGoesOnAndHoldsInputs : Obligations.EveryStepGoesOnAndHoldsInputs := by
  unfold Obligations.EveryStepGoesOnAndHoldsInputs
  intro s
  cases hdefined : s.inputsDefined with
  | true => exact ⟨_, stepIsTheEvaluation s hdefined, rfl, hdefined⟩
  | false =>
    obtain ⟨o, ho⟩ := undefinedInputsStillStep s hdefined
    exact ⟨_, ho, rfl, hdefined⟩

/-- Settles O27: the inputs are held, so the second evaluation drives the same outputs again. -/
theorem stepIsIdempotent : Obligations.StepIsIdempotent := by
  unfold Obligations.StepIsIdempotent
  intro s t hdefined h
  rw [step_next_iff hdefined] at h
  subst h
  refine (step_next_iff ((driveOutputs_inputsDefined _ s).trans hdefined)).mpr ?_
  rw [driveOutputs_inp, driveOutputs_driveOutputs]

/-- Settles O31: the port holds the instruction's own word, which decodes to it. -/
theorem placedCommandRunsNext : Obligations.PlacedCommandRunsNext := by
  unfold Obligations.PlacedCommandRunsNext
  intro s i
  have hword : BitVec.ofNat 16 ((encode i).toNat % 2 ^ 16) = encode i := by
    rw [Nat.mod_eq_of_lt (encode i).isLt, BitVec.ofNat_toNat, BitVec.setWidth_eq]
  rw [withFetchWord_sixteen, hword]
  exact stepRunsDecodedInstruction _ i rfl (decodeOfEncodeIsTheInstruction i)

/-! ## The invariant -/

/-- How many of three flags are 1. -/
def flagsSet (f : Bool × Bool × Bool) : Nat := f.1.toNat + f.2.1.toNat + f.2.2.toNat

/-- A true result is not on both sides of the signed range. -/
theorem flagsSet_signedRange (t : Int) (w : Nat) :
    flagsSet (decide (2 ^ (w - 1) - 1 < t), decide (t < -(2 ^ (w - 1))), false) ≤ 1 := by
  have hpos : (0 : Int) < 2 ^ (w - 1) := by positivity
  by_cases hovf : 2 ^ (w - 1) - 1 < t
  · have hunf : ¬ t < -(2 ^ (w - 1)) := by omega
    simp [flagsSet, hovf, hunf]
  · simp [flagsSet, hovf, Bool.toNat_le]

/-- An overflow by the divisor -1 and a zero divisor exclude each other. -/
theorem flagsSet_signedQuotient (x y m : Int) : flagsSet (decide (x = m ∧ y = -1), false, decide (y = 0)) ≤ 1 := by
  by_cases hzero : y = 0
  · simp [flagsSet, hzero]
  · simp [flagsSet, hzero, Bool.toNat_le]

/-- No row of the table of R28 sets two flags (R34): the signed rows have two sides of one range, and DIV.S overflows for
the divisor -1 alone. -/
theorem flagsSet_flagTable (i : Instr) (a b : Word) : flagsSet (flagTable i a b) ≤ 1 := by
  cases i with
  | addS | subS | mulS => exact flagsSet_signedRange _ _
  | addU | subU | mulU | divU => simp [flagTable, flagsSet, Bool.toNat_le]
  | divS => exact flagsSet_signedQuotient _ _ _
  | and | or | xor | not | shl | shr | sar => exact Nat.zero_le 1

/-- The one unit that drives REM is the divider (R25). -/
theorem evalInstr_rem_of_not_div {cfg : Config} {i : Instr} {a b : Word} {x : Result}
    (h : evalInstr cfg i a b = .ok x) (hdiv : i.isDiv = false) : x.rem = 0 := by
  cases i with
  | addU | addS | subU | subS | mulU | mulS | and | or | xor | not =>
    obtain ⟨-, -, hu⟩ := atWidth_ok h
    cases hu
    rfl
  | divU | divS => cases hdiv
  | shl | shr | sar =>
    obtain ⟨-, -, hu⟩ := atWidth_ok h
    cases withAmount_ok hu
    rfl

/-- DBZ is the divider's alone too (R28). -/
theorem evalInstr_dbz_of_not_div {i : Instr} {a b : Word} {x : Result} (h : evalInstr Config.t64 i a b = .ok x)
    (hdiv : i.isDiv = false) : x.dbz = false := by
  by_contra hdbz
  obtain ⟨hisDiv, -, -⟩ := dividesByZero_of_dbz h (Bool.eq_true_of_not_eq_false hdbz)
  rw [hdiv] at hisDiv
  cases hisDiv

/-- A shift that has a result was given an amount that is not negative (45_shifter R120). -/
theorem amount_nonneg_of_evalInstr_ok {i : Instr} {a b : Word} {x : Result} (h : evalInstr Config.t64 i a b = .ok x)
    (hshift : i.isShift = true) : b.getLsbD 31 = false := by
  have hlegal := wellFormed_of_evalInstr_ok h
  rw [Instr.wellFormed, ← widthIsLegal_eq_wellFormed] at hlegal
  by_contra hsign
  rw [evalInstr_of_negative _ i a b hlegal hshift (Bool.eq_true_of_not_eq_false hsign)] at h
  cases h

/-- The error outcome fits any inputs: one flag, and nothing else on the ports (R133). -/
theorem outputsFit_errorOutputs (inp : Inputs) : OutputsFit inp errorOutputs where
  oneFlag := le_rfl
  errorIsBare _ := rfl
  resultIsLegal herr := by cases herr

theorem outputsFit_resultOutputs {inp : Inputs} {i : Instr} {x : Result} (hi : decode inp.cmd = .ok i)
    (hx : evalInstr Config.t64 i inp.a inp.b = .ok x) : OutputsFit inp (resultOutputs x) where
  oneFlag := by
    have hflags := flagsSet_flagTable i inp.a inp.b
    rw [← evalInstr_flags hx] at hflags
    exact hflags
  errorIsBare herr := by cases herr
  resultIsLegal _ := by
    obtain ⟨hr, hrem⟩ := evalInstr_inRange hx
    exact ⟨i, hi, wellFormed_of_evalInstr_ok hx, amount_nonneg_of_evalInstr_ok hx, hr, hrem,
      fun hdiv => ⟨evalInstr_rem_of_not_div hx hdiv, evalInstr_dbz_of_not_div hx hdiv⟩⟩

/-- Whatever the inputs, their evaluation's outputs fit them. -/
theorem outputsFit_eval (inp : Inputs) : OutputsFit inp (outputsOf (eval Config.t64 inp.cmd inp.a inp.b)) := by
  cases hd : decode inp.cmd with
  | error e =>
    rw [eval, hd]
    exact outputsFit_errorOutputs inp
  | ok i =>
    rw [eval_of_decode hd]
    cases hx : evalInstr Config.t64 i inp.a inp.b with
    | error f => exact outputsFit_errorOutputs inp
    | ok x => exact outputsFit_resultOutputs hd hx

/-- Settles O32: on defined inputs a step leaves their evaluation's outputs, and on others the invariant claims
nothing. -/
theorem stepKeepsOutputsFit : Obligations.StepKeepsOutputsFit := by
  unfold Obligations.StepKeepsOutputsFit
  intro s t _ h hdefined
  obtain ⟨t', ht', -, hheld⟩ := everyStepGoesOnAndHoldsInputs s
  obtain rfl : t' = t := Host.Outcome.next.inj (ht'.symm.trans h)
  rw [step_next_iff (hheld.symm.trans hdefined)] at h
  rw [h]
  exact outputsFit_eval s.inp

/-- Settles O35: the outputs at reset are the error outcome. -/
theorem resetOutputsFit : Obligations.ResetOutputsFit := fun _ => outputsFit_errorOutputs _

/-- Settles O36: the word 0x0000 is ADD.U with WIDTH 0, which drives the error outcome that is there already. -/
theorem resetIsSettled : Obligations.ResetIsSettled := by
  have hraises : eval Config.t64 0 0 0 = .error (.invalidArgument .bitWidth) :=
    evalInstr_of_illegal _ (.addU 0) 0 0 (by decide)
  exact (step_next_iff rfl).mpr (congrArg (fun e => driveOutputs (outputsOf e) State.reset) hraises.symm)

/-! ## The exception -/

/-- An instruction whose evaluation raises drives the error tuple and changes nothing else (R133, R138). -/
theorem exec_of_raises {i : Instr} {s : State} {f : Fault}
    (h : evalInstr Config.t64 i s.inp.a s.inp.b = .error f) : exec i s = .next { s with out := errorTuple } := by
  rw [exec_eq_answer, h, answer_eq]
  rfl

/-- Settles O16: every row checks its WIDTH first. -/
theorem illegalWidthTakesTheException : Obligations.IllegalWidthTakesTheException := by
  unfold Obligations.IllegalWidthTakesTheException
  intro i s hwidth
  have hillegal : widthIsLegal Config.t64 i.width = false :=
    Bool.eq_false_iff.mpr fun hlegal => hwidth _ ⟨rfl, (widthIsLegal_t64 _).mp hlegal⟩
  exact exec_of_raises (evalInstr_of_illegal _ _ _ _ hillegal)

/-- Settles O17: past the width check the three shifts check their amount. -/
theorem negativeAmountTakesTheException : Obligations.NegativeAmountTakesTheException := by
  unfold Obligations.NegativeAmountTakesTheException
  intro i w s hshift hlegal hsign
  exact exec_of_raises (evalInstr_of_negative _ _ _ _ (widthIsLegal_of_legalWidth hlegal) hshift hsign)

/-- Settles O26: the evaluation under each cause, with the causes before it excluded, and under none. -/
theorem causesFollowTheOrderOfValidation : Obligations.CausesFollowTheOrderOfValidation := by
  unfold Obligations.CausesFollowTheOrderOfValidation
  intro cmd a b
  exact ⟨eval_of_reservedBits a b, eval_of_reservedOpcode a b, eval_of_illegalWidth a b, eval_of_negativeShift a,
    eval_of_no_cause a⟩

end Sys2Proof.Proofs.StepRules

/-! PROOFS about operands, patterns and ports (10_state R27, R35; 40_sign_converter R73, R75, R79). Conversions are
compared as `w`-bit vectors; an operand enters an evaluation through its pattern alone. -/

namespace Sys2Proof.Proofs.OperandRules

open Sys2Proof Sys2Proof.Machine Sys2Proof.Proofs.SignConverterRules Sys2Proof.Proofs.BitwiseRules
  Sys2Proof.Proofs.ShifterRules

/-! ## Integers, patterns and ports -/

/-- A width of WIDTHS is positive and fits the port. -/
theorem bounds_of_mem_widths {w : Nat} (h : w = 8 ∨ w = 16 ∨ w = 32) : 0 < w ∧ w ≤ 32 := by omega

/-- A pattern is the number of a `w`-bit vector. -/
theorem exists_toNat_eq {w p : Nat} (hp : p < 2 ^ w) : ∃ x : BitVec w, p = x.toNat := ⟨BitVec.ofNatLT p hp, rfl⟩

theorem portOfInt_eq_ofInt (v : Int) : portOfInt v = BitVec.ofInt 32 v := by
  rw [portOfInt, normTo_eq_ofInt, BitVec.ofNat_toNat, BitVec.setWidth_eq]

/-- The low bits of an integer on a port are those of the integer, since `2^w` divides `2^32` (10_state R27). -/
theorem setWidth_ofInt (v : Int) {w : Nat} (hw : w ≤ 32) : (BitVec.ofInt 32 v).setWidth w = BitVec.ofInt w v := by
  apply BitVec.eq_of_toNat_eq
  have hdvd : ((2 ^ w : Nat) : Int) ∣ ((2 ^ 32 : Nat) : Int) := by exact_mod_cast Nat.pow_dvd_pow 2 hw
  rw [BitVec.toNat_setWidth, ← normTo_eq_ofInt, ← normTo_eq_ofInt, ← Nat.cast_inj (R := Int), Int.natCast_emod,
    normTo_cast_eq, normTo_cast_eq, Int.emod_emod_of_dvd _ hdvd]

/-- The two's-complement reading of the pattern of an integer (R72, R73). -/
theorem toSigned_normTo (v : Int) {w : Nat} (hw : 0 < w) : toSigned (normTo v w) w = (BitVec.ofInt w v).toInt := by
  rw [normTo_eq_ofInt, toSigned_eq _ hw]

theorem toSigned_normTo_of_mem_range {v : Int} {w : Nat} (hw : 0 < w) (hmin : -(2 ^ (w - 1)) ≤ v)
    (hmax : v ≤ 2 ^ (w - 1) - 1) : toSigned (normTo v w) w = v := by
  rw [toSigned_normTo v hw, BitVec.toInt_ofInt_eq_self hw hmin (by omega)]

theorem normTo_toSigned {w : Nat} (hw : 0 < w) (x : BitVec w) : normTo (toSigned x.toNat w) w = x.toNat := by
  rw [toSigned_eq x hw, normTo_eq_ofInt, BitVec.ofInt_toInt]

/-- Settles O38: the port keeps the low 32 bits of the integer, and the operand the low `w` of these. -/
theorem portsLoseNothing : Obligations.PortsLoseNothing := by
  unfold Obligations.PortsLoseNothing
  intro v w hw
  rw [portOfInt_eq_ofInt, valueOperand_eq, setWidth_ofInt v (bounds_of_mem_widths hw).2, normTo_eq_ofInt]

/-- Settles O40: both conversions go through the vector of the pattern, whose signed range is that of the width. -/
theorem signConversionInverts : Obligations.SignConversionInverts := by
  unfold Obligations.SignConversionInverts
  intro w hw
  obtain ⟨hpos, -⟩ := bounds_of_mem_widths hw
  refine ⟨fun v hmin hmax => toSigned_normTo_of_mem_range hpos hmin hmax, fun p hp => ?_⟩
  have htwo : 0 < 2 ^ w := by positivity
  obtain ⟨x, rfl⟩ := exists_toNat_eq (by omega : p < 2 ^ w)
  exact normTo_toSigned hpos x

/-- Settles O43: the wrap lies in the signed range, where the pattern determines the value, and has the same pattern. -/
theorem wrapIsMaskAndReread : Obligations.WrapIsMaskAndReread := by
  unfold Obligations.WrapIsMaskAndReread
  intro t w hw
  obtain ⟨hmin, hmax⟩ := wrapSigned_mem_range t hw
  rw [← normTo_wrapSigned t w hw, toSigned_normTo_of_mem_range hw hmin hmax]

/-- Settles O39: the port is the extension of the pattern's vector, which keeps its low bits and its reading. -/
theorem presentedPortReadsBack : Obligations.PresentedPortReadsBack := by
  unfold Obligations.PresentedPortReadsBack
  intro w p sg hw hp
  obtain ⟨hpos, hle⟩ := bounds_of_mem_widths hw
  obtain ⟨x, rfl⟩ := exists_toNat_eq hp
  refine ⟨?pattern, ?integer⟩
  case pattern => rw [readPattern, valueOperand_eq, present_eq_extend x sg hle, setWidth_extend x sg hle]
  case integer =>
    cases sg with
    | unsigned => exact congrArg Nat.cast (present_unsigned_toNat x hle)
    | signed => exact (toSigned_port _).trans (present_signed_toInt x hpos hle)

/-! ## What an evaluation sees of its operands -/

/-- The width check looks at WIDTH alone, so what follows it matters at that width only. -/
theorem atWidth_congr (cfg : Config) {width : WidthField} {unit unit' : Nat → Evaluation}
    (h : unit width.toNat = unit' width.toNat) : atWidth cfg width unit = atWidth cfg width unit' := by
  cases hlegal : widthIsLegal cfg width with
  | true => rw [atWidth_of_legal _ _ _ hlegal, atWidth_of_legal _ _ _ hlegal, h]
  | false => rw [atWidth_of_illegal _ _ _ hlegal, atWidth_of_illegal _ _ _ hlegal]

theorem valueOperand_eq_mod (x : Word) (w : Nat) : valueOperand x w = x.toNat % 2 ^ w := by
  rw [valueOperand_eq, BitVec.toNat_setWidth]

theorem signedOperand_congr {x x' : Word} {w : Nat} (h : valueOperand x w = valueOperand x' w) :
    signedOperand x w = signedOperand x' w := by
  rw [signedOperand, h, ← signedOperand]

/-- Every row takes A, and B where it is a value operand, through `norm` (10_state R35). -/
theorem evalInstr_congr (cfg : Config) (i : Instr) {a a' b b' : Word}
    (ha : valueOperand a i.width.toNat = valueOperand a' i.width.toNat)
    (hb : if i.isShift then b = b' else valueOperand b i.width.toNat = valueOperand b' i.width.toNat) :
    evalInstr cfg i a b = evalInstr cfg i a' b' := by
  cases i with
  | addU width | subU width | mulU width | divU width | and _ width | or _ width | xor _ width =>
    replace ha : valueOperand a width.toNat = valueOperand a' width.toNat := ha
    replace hb : valueOperand b width.toNat = valueOperand b' width.toNat := hb
    exact atWidth_congr cfg (by simp only [ha, hb])
  | addS width | subS width | mulS width | divS width =>
    replace ha : signedOperand a width.toNat = signedOperand a' width.toNat := signedOperand_congr ha
    replace hb : signedOperand b width.toNat = signedOperand b' width.toNat := signedOperand_congr hb
    exact atWidth_congr cfg (by rw [ha, hb])
  | not _ width =>
    replace ha : valueOperand a width.toNat = valueOperand a' width.toNat := ha
    exact atWidth_congr cfg (by rw [ha])
  | shl _ width | shr _ width =>
    replace ha : valueOperand a width.toNat = valueOperand a' width.toNat := ha
    obtain rfl : b = b' := hb
    exact atWidth_congr cfg (by rw [ha])
  | sar _ width =>
    replace ha : signedOperand a width.toNat = signedOperand a' width.toNat := signedOperand_congr ha
    obtain rfl : b = b' := hb
    exact atWidth_congr cfg (by rw [ha])

/-- Settles O37: each evaluation goes through `norm`; and SHL.U.8 shifts 1 by 0 and by 256 to different patterns. -/
theorem operandsAreNormalised : Obligations.OperandsAreNormalised := by
  unfold Obligations.OperandsAreNormalised
  refine ⟨fun cfg i a a' b b' ha hb => evalInstr_congr cfg i ?_ ?_, .shl .unsigned 8, 1, 0, 256, rfl, ?_, ?_⟩
  · rwa [valueOperand_eq_mod, valueOperand_eq_mod]
  · rwa [valueOperand_eq_mod, valueOperand_eq_mod]
  · decide
  · decide

end Sys2Proof.Proofs.OperandRules

/-! PROOFS about the open parameters (00_scope R9; 92 D6, D14): HAS_W32 is looked at by the width check alone, and
P_SHL_OVF by SHL's flag alone. -/

namespace Sys2Proof.Proofs.OptionRules

open Sys2Proof Sys2Proof.Machine Sys2Proof.Proofs.ShifterRules

theorem widthIsLegal_without_w32 (cfg : Config) (width : WidthField) :
    widthIsLegal { cfg with hasW32 := false } width = (width.toNat != 32 && widthIsLegal cfg width) := by
  by_cases h : width.toNat = 32
  · simp [widthIsLegal, h]
  · have hne : (width.toNat == 32) = false := beq_eq_false_iff_ne.mpr h
    simp [widthIsLegal, bne, hne]

/-- Without HAS_W32 the width check raises at width 32, and does what it did at every other. -/
theorem atWidth_without_w32 (cfg : Config) (width : WidthField) (unit : Nat → Evaluation) :
    atWidth { cfg with hasW32 := false } width unit =
      if width.toNat = 32 then .error (.invalidArgument .bitWidth) else atWidth cfg width unit := by
  have hlegal := widthIsLegal_without_w32 cfg width
  split
  next h32 => exact atWidth_of_illegal _ _ _ (by simp [hlegal, h32])
  next h32 =>
    have hsame : bitWidth { cfg with hasW32 := false } width = bitWidth cfg width := by
      simp [bitWidth, hlegal, h32]
    rw [atWidth, hsame, ← atWidth]

/-- Settles O56: every row is the width check and then a unit that does not look at HAS_W32. -/
theorem widthThirtyTwoIsAnOption : Obligations.WidthThirtyTwoIsAnOption := by
  unfold Obligations.WidthThirtyTwoIsAnOption
  intro cfg i a b
  cases i <;> exact atWidth_without_w32 cfg _ _

/-- The effective amount decides the overflow of SHL as the whole amount does: from `w` up, only 0 fits (92 D14). -/
theorem shlOverflows_eq {p w : Nat} (n : Nat) : shlOverflows p n w = decide (mask w < p * 2 ^ n) := by
  rw [shlOverflows, decide_eq_decide, effectiveAmount, gt_iff_lt]
  rcases Nat.le_total n w with h | h
  · rw [min_eq_left h]
  rw [min_eq_right h]
  rcases Nat.eq_zero_or_pos p with rfl | hp
  · rw [zero_mul, zero_mul]
  have hmask : mask w < 2 ^ w := Nat.sub_one_lt (by positivity)
  have hw : 2 ^ w ≤ p * 2 ^ w := Nat.le_mul_of_pos_left _ hp
  have hn : p * 2 ^ w ≤ p * 2 ^ n := Nat.mul_le_mul_left p (Nat.pow_le_pow_right (by decide) h)
  exact iff_of_true (by omega) (by omega)

/-- Settles O57: past the two checks the parameter stands before the flag, and nowhere else. -/
theorem shlOverflowIsAnOption : Obligations.ShlOverflowIsAnOption := by
  unfold Obligations.ShlOverflowIsAnOption
  intro cfg sg width a b hlegal hb
  refine ⟨_, (atWidth_of_legal _ _ _ hlegal).trans (withAmount_of_nonneg hb _), rfl, ?_⟩
  refine ((atWidth_of_legal _ _ _ hlegal).trans (withAmount_of_nonneg hb _)).trans ?_
  rw [← shlOverflows_eq]
  rfl

end Sys2Proof.Proofs.OptionRules

/-! PROOFS about the flags of the adder in terms of carries (41_adder R90). A two's-complement vector is its low bits and
its sign bit; the sum of two of them leaves the signed range exactly if the carry into the sign bit differs from the carry
out of it. A difference is the sum with the complement and a carry in. -/

namespace Sys2Proof.Proofs.CarryRules

open Sys2Proof Sys2Proof.Machine Sys2Proof.Claims Sys2Proof.Proofs.SignConverterRules Sys2Proof.Proofs.AdderRules
  Sys2Proof.Proofs.ShifterRules

/-! ## A vector as its low bits and its sign bit -/

/-- The weight of the sign bit, where it is set. -/
def signWeight {w : Nat} (x : BitVec w) : Nat := if x.msb then 2 ^ (w - 1) else 0

/-- The number that the bits below the sign bit make. -/
def lowBits {w : Nat} (x : BitVec w) : Nat := x.toNat % 2 ^ (w - 1)

theorem nat_two_pow_eq {w : Nat} (hw : 0 < w) : 2 ^ w = 2 * 2 ^ (w - 1) := two_pow_eq w hw

theorem lowBits_lt {w : Nat} (x : BitVec w) : lowBits x < 2 ^ (w - 1) := Nat.mod_lt _ (by positivity)

theorem signWeight_eq_or {w : Nat} (x : BitVec w) : signWeight x = 0 ∨ signWeight x = 2 ^ (w - 1) := by
  unfold signWeight
  split
  · exact .inr rfl
  · exact .inl rfl

theorem toNat_eq_lowBits_add {w : Nat} (hw : 0 < w) (x : BitVec w) : x.toNat = lowBits x + signWeight x := by
  have hx := x.isLt
  have hdouble := nat_two_pow_eq hw
  rw [lowBits, signWeight, BitVec.msb_eq_decide]
  by_cases h : 2 ^ (w - 1) ≤ x.toNat
  · rw [if_pos (decide_eq_true h), Nat.mod_eq_sub_mod h, Nat.mod_eq_of_lt (by omega), Nat.sub_add_cancel h]
  · rw [if_neg (by simpa using h), Nat.mod_eq_of_lt (not_le.mp h), Nat.add_zero]

theorem toInt_eq_lowBits_sub {w : Nat} (hw : 0 < w) (x : BitVec w) : x.toInt = lowBits x - signWeight x := by
  have hnat := toNat_eq_lowBits_add hw x
  have hdouble := nat_two_pow_eq hw
  rw [BitVec.toInt_eq_msb_cond]
  unfold signWeight at *
  split
  next h => rw [if_pos h] at hnat; omega
  next h => rw [if_neg h] at hnat; omega

/-- The complement negates and takes 1 (00_scope R12). -/
theorem toInt_complement {w : Nat} (hw : 0 < w) (y : BitVec w) : (~~~y).toInt = -y.toInt - 1 := by
  have hmin := BitVec.le_toInt y
  have hmax := @BitVec.toInt_lt _ y
  have hpattern : BitVec.ofInt w (-y.toInt - 1) = ~~~y := by
    rw [ofInt_sub, BitVec.ofInt_neg, BitVec.ofInt_toInt, BitVec.neg_eq_not_add]
    simp
  rw [← hpattern, BitVec.toInt_ofInt_eq_self hw (by omega) (by omega)]

/-! ## Carries -/

section Carries

variable {w : Nat} (x y : BitVec w) (c : Bool)

theorem carry_out_eq : BitVec.carry w x y c = decide (2 ^ w ≤ x.toNat + y.toNat + c.toNat) := by
  rw [BitVec.carry, Nat.mod_eq_of_lt x.isLt, Nat.mod_eq_of_lt y.isLt]

theorem carry_into_sign_eq :
    BitVec.carry (w - 1) x y c = decide (2 ^ (w - 1) ≤ lowBits x + lowBits y + c.toNat) := rfl

/-- The true sum leaves the signed range exactly if the carry into the sign bit is not the carry out of it (R90). -/
theorem overflow_eq_carries (hw : 0 < w) {t : Int} (ht : t = x.toInt + y.toInt + c.toNat) :
    (decide (t > 2 ^ (w - 1) - 1) || decide (t < -(2 ^ (w - 1)))) =
      (BitVec.carry (w - 1) x y c ^^ BitVec.carry w x y c) := by
  have hdouble := nat_two_pow_eq hw
  have hc := Bool.toNat_le c
  have hlx := lowBits_lt x
  have hly := lowBits_lt y
  rw [carry_out_eq, carry_into_sign_eq, toNat_eq_lowBits_add hw x, toNat_eq_lowBits_add hw y, Bool.eq_iff_iff,
    Bool.or_eq_true, Bool.xor_iff_ne]
  simp only [ne_eq, decide_eq_decide, decide_eq_true_eq, ht, toInt_eq_lowBits_sub hw, ← pow_natCast]
  rcases signWeight_eq_or x with hx | hx <;> rcases signWeight_eq_or y with hy | hy <;> rw [hx, hy] <;> omega

end Carries

/-! ## The side of an overflow -/

/-- A true result that is less than one modulus away from the range has wrapped once if it left the range, so that the
sign bit of its pattern tells the side (R90). -/
theorem sides_eq_sign {w : Nat} (hw : 0 < w) {t : Int} (hlo : -(2 ^ w) ≤ t) (hhi : t < 2 ^ w) :
    decide (t > 2 ^ (w - 1) - 1) =
        ((decide (t > 2 ^ (w - 1) - 1) || decide (t < -(2 ^ (w - 1)))) && (BitVec.ofInt w t).msb) ∧
      decide (t < -(2 ^ (w - 1))) =
        ((decide (t > 2 ^ (w - 1) - 1) || decide (t < -(2 ^ (w - 1)))) && !(BitVec.ofInt w t).msb) := by
  have hdouble := int_two_pow_eq hw
  have hpos : (0 : Int) < 2 ^ (w - 1) := by positivity
  have hpattern : ((BitVec.ofInt w t).toNat : Int) = t % 2 ^ w := by
    rw [← normTo_eq_ofInt, normTo_cast_eq, pow_natCast]
  have hmsb : (BitVec.ofInt w t).msb = decide ((2 : Int) ^ (w - 1) ≤ t % 2 ^ w) := by
    rw [BitVec.msb_eq_decide, decide_eq_decide, ← hpattern]
    exact_mod_cast Iff.rfl
  rw [hmsb]
  by_cases hovf : t > 2 ^ (w - 1) - 1
  · have hunf : ¬ t < -(2 ^ (w - 1)) := by omega
    have hsign : (2 : Int) ^ (w - 1) ≤ t % 2 ^ w := by rw [Int.emod_eq_of_lt (by omega) hhi]; omega
    simp [hovf, hunf, hsign]
  by_cases hunf : t < -(2 ^ (w - 1))
  · have hsign : ¬ (2 : Int) ^ (w - 1) ≤ t % 2 ^ w := by
      rw [← Int.add_emod_right, Int.emod_eq_of_lt (by omega) (by omega)]
      omega
    simp [hovf, hunf, hsign]
  · simp [hovf, hunf]

theorem sides_eq_sign_of_sum {w : Nat} (hw : 0 < w) (x y : BitVec w) (c : Bool) {t : Int}
    (ht : t = x.toInt + y.toInt + c.toNat) :
    decide (t > 2 ^ (w - 1) - 1) =
        ((decide (t > 2 ^ (w - 1) - 1) || decide (t < -(2 ^ (w - 1)))) && (BitVec.ofInt w t).msb) ∧
      decide (t < -(2 ^ (w - 1))) =
        ((decide (t > 2 ^ (w - 1) - 1) || decide (t < -(2 ^ (w - 1)))) && !(BitVec.ofInt w t).msb) := by
  have hdouble := int_two_pow_eq hw
  have hc := Bool.toNat_le c
  have hxmin := BitVec.le_toInt x
  have hxmax := @BitVec.toInt_lt _ x
  have hymin := BitVec.le_toInt y
  have hymax := @BitVec.toInt_lt _ y
  exact sides_eq_sign hw (by omega) (by omega)

/-! ## The four rows -/

/-- No borrow leaves a difference exactly if the carry leaves the sum with the complement (R90). -/
theorem borrow_eq_not_carry {w : Nat} (x y : BitVec w) :
    decide (x.toNat < y.toNat) = !(BitVec.carry w x (~~~y) true) := by
  have hy := y.isLt
  rw [carry_out_eq, BitVec.toNat_not, ← decide_not, decide_eq_decide, Bool.toNat_true]
  omega

/-- Settles O44: the rows of the adder, with SUB.S as the sum with the complement and a carry in. -/
theorem adderFlagsAreCarries : Obligations.AdderFlagsAreCarries := by
  unfold Obligations.AdderFlagsAreCarries
  intro width w s h
  obtain ⟨hpos, hle⟩ := bounds_of_legalWidth h
  have hadd := addUnsignedComputes width w s h
  have hadds := addSignedComputes width w s h
  have hsub := subUnsignedComputes width w s h
  have hsubs := subSignedComputes width w s h
  refine ⟨_, _, _, _, hadd.2, hadds.2, hsub.2, hsubs.2, ?_⟩
  dsimp only [signedTuple]
  generalize s.inp.a.setWidth w = x
  generalize s.inp.b.setWidth w = y
  have hsum : x.toInt + y.toInt = x.toInt + y.toInt + false.toNat := by simp
  have hdiff : x.toInt - y.toInt = x.toInt + (~~~y).toInt + true.toNat := by
    rw [toInt_complement hpos, Bool.toNat_true]
    omega
  have hsumSides := sides_eq_sign_of_sum hpos x y false hsum
  have hdiffSides := sides_eq_sign_of_sum hpos x (~~~y) true hdiff
  rw [ofInt_toInt_add] at hsumSides
  rw [ofInt_toInt_sub] at hdiffSides
  have hunsigned (z : BitVec w) : (z.setWidth 32).setWidth w = z := setWidth_extend z .unsigned hle
  have hsigned (z : BitVec w) : (z.signExtend 32).setWidth w = z := setWidth_extend z .signed hle
  simp only [hunsigned, hsigned]
  exact ⟨trivial, trivial, (carry_out_eq x y false).symm, borrow_eq_not_carry x y,
    overflow_eq_carries x y false hpos hsum, overflow_eq_carries x (~~~y) true hpos hdiff,
    hsumSides.1, hsumSides.2, hdiffSides.1, hdiffSides.2⟩

end Sys2Proof.Proofs.CarryRules

/-! PROOFS about the flags of the multiplier in terms of the exact products (42_multiplier R98). Twice the width holds each
product exactly; its high bits are those of the number divided by a power of two. -/

namespace Sys2Proof.Proofs.ProductRules

open Sys2Proof Sys2Proof.Machine Sys2Proof.Claims Sys2Proof.Proofs.ShifterRules Sys2Proof.Proofs.MultiplierRules
  Sys2Proof.Proofs.CarryRules

section Products

variable {w : Nat} (x y : BitVec w)

/-- The product of the zero-extended operands does not wrap (R98). -/
theorem toNat_exactProduct : (x.setWidth (2 * w) * y.setWidth (2 * w)).toNat = x.toNat * y.toNat := by
  have hxy : x.toNat * y.toNat < 2 ^ (2 * w) := by
    rw [two_mul, pow_add]
    exact Nat.mul_lt_mul'' x.isLt y.isLt
  rw [BitVec.toNat_mul, BitVec.toNat_setWidth_of_le (by omega), BitVec.toNat_setWidth_of_le (by omega),
    Nat.mod_eq_of_lt hxy]

/-- A product of two signed readings lies in the square of the range, below half the modulus of `2w` bits. -/
theorem toInt_mul_bounds : -(2 ^ (w - 1) * 2 ^ (w - 1)) ≤ x.toInt * y.toInt ∧
    x.toInt * y.toInt ≤ 2 ^ (w - 1) * 2 ^ (w - 1) := by
  have hpos : (0 : Int) ≤ 2 ^ (w - 1) := by positivity
  have hx : |x.toInt| ≤ 2 ^ (w - 1) := abs_le.mpr ⟨BitVec.le_toInt x, BitVec.toInt_lt.le⟩
  have hy : |y.toInt| ≤ 2 ^ (w - 1) := abs_le.mpr ⟨BitVec.le_toInt y, BitVec.toInt_lt.le⟩
  rw [← abs_le, abs_mul]
  exact mul_le_mul hx hy (abs_nonneg _) hpos

/-- The product of the sign-extended operands does not wrap (R98). -/
theorem toInt_exactProduct (hw : 0 < w) :
    (x.signExtend (2 * w) * y.signExtend (2 * w)).toInt = x.toInt * y.toInt := by
  obtain ⟨hmin, hmax⟩ := toInt_mul_bounds x y
  have hhalf : (2 : Int) ^ (2 * w - 1) = 2 * (2 ^ (w - 1) * 2 ^ (w - 1)) := by
    rw [← pow_add, ← pow_succ']
    congr 1
    omega
  have hpos : (0 : Int) < 2 ^ (w - 1) * 2 ^ (w - 1) := by positivity
  have hwrap : x.signExtend (2 * w) * y.signExtend (2 * w) = BitVec.ofInt (2 * w) (x.toInt * y.toInt) := by
    rw [← ofInt_toInt_mul, BitVec.toInt_signExtend_of_le (by omega), BitVec.toInt_signExtend_of_le (by omega)]
  rw [hwrap, BitVec.toInt_ofInt_eq_self (by omega) (by omega) (by omega)]

end Products

/-! ## The high bits -/

/-- The bits of a vector from bit `k` up, as a number. -/
theorem toNat_highBits {n : Nat} (z : BitVec n) {k m : Nat} (hn : n = k + m) :
    (z.extractLsb' k m).toNat = z.toNat / 2 ^ k := by
  subst hn
  rw [BitVec.extractLsb'_toNat, Nat.shiftRight_eq_div_pow, Nat.mod_eq_of_lt]
  exact Nat.div_lt_of_lt_mul (by rw [← pow_add]; exact z.isLt)

theorem highBits_eq_zero_iff {n : Nat} (z : BitVec n) {k m : Nat} (hn : n = k + m) :
    z.extractLsb' k m = 0 ↔ z.toNat < 2 ^ k := by
  have hpow : 0 < 2 ^ k := by positivity
  rw [← BitVec.toNat_inj, toNat_highBits z hn, BitVec.ofNat_eq_ofNat, BitVec.toNat_zero,
    Nat.div_eq_zero_iff_lt hpow]

theorem highBits_eq_allOnes_iff {n : Nat} (z : BitVec n) {k m : Nat} (hn : n = k + m) :
    z.extractLsb' k m = BitVec.allOnes m ↔ 2 ^ n - 2 ^ k ≤ z.toNat := by
  have hz := z.isLt
  have hpow : 0 < 2 ^ k := by positivity
  have hsplit : (2 ^ m - 1) * 2 ^ k = 2 ^ n - 2 ^ k := by
    rw [Nat.sub_mul, one_mul, ← pow_add, Nat.add_comm m k, ← hn]
  have hlt : z.toNat / 2 ^ k < 2 ^ m := Nat.div_lt_of_lt_mul (by rw [← pow_add, ← hn]; exact hz)
  rw [← BitVec.toNat_inj, toNat_highBits z hn, BitVec.toNat_allOnes, ← hsplit, ← Nat.le_div_iff_mul_le hpow]
  omega

/-- A two's-complement number fits `k + 1` bits exactly if its bits from `k` up are all equal. -/
theorem highBits_equal_iff {n : Nat} (z : BitVec n) {k m : Nat} (hn : n = k + m) (hm : 0 < m) :
    (z.extractLsb' k m = 0 ∨ z.extractLsb' k m = BitVec.allOnes m) ↔ -(2 ^ k) ≤ z.toInt ∧ z.toInt < 2 ^ k := by
  have hz := z.isLt
  have hdouble := nat_two_pow_eq (by omega : 0 < n)
  have hpow : 2 ^ k ≤ 2 ^ (n - 1) := Nat.pow_le_pow_right (by decide) (by omega)
  rw [highBits_eq_zero_iff z hn, highBits_eq_allOnes_iff z hn, BitVec.toInt_eq_toNat_cond, ← pow_natCast]
  split <;> omega

/-! ## The two rows -/

/-- Settles O45: the exact products decide the flags; the sign of `Q` is that of the true product. -/
theorem multiplierFlagsFromExactProducts : Obligations.MultiplierFlagsFromExactProducts := by
  unfold Obligations.MultiplierFlagsFromExactProducts
  intro width w s P Q h hP hQ
  obtain ⟨hpos, -⟩ := bounds_of_legalWidth h
  refine ⟨_, _, (mulUnsignedComputes width w s h).2, (mulSignedComputes width w s h).2, ?_⟩
  dsimp only [signedTuple]
  generalize s.inp.a.setWidth w = x at *
  generalize s.inp.b.setWidth w = y at *
  have hPnat : P.toNat = x.toNat * y.toNat := hP ▸ toNat_exactProduct x y
  have hQint : Q.toInt = x.toInt * y.toInt := hQ ▸ toInt_exactProduct x y hpos
  have hhigh := highBits_eq_zero_iff P (two_mul w)
  have hequal := highBits_equal_iff Q (by omega : 2 * w = (w - 1) + (w + 1)) (Nat.succ_pos w)
  have hrange : (0 : Int) < 2 ^ (w - 1) := by positivity
  rw [hPnat] at hhigh
  rw [hQint] at hequal
  have hsign : Q.msb = decide (x.toInt * y.toInt < 0) := by rw [BitVec.msb_eq_toInt, hQint]
  rw [hsign]
  generalize x.toInt * y.toInt = t at *
  refine ⟨?unsignedOvf, ?signedRange, ?ovfSide, ?unfSide⟩
  case unsignedOvf => rw [decide_eq_decide, ne_eq, hhigh, not_lt]
  case signedRange =>
    rw [← Bool.decide_or, decide_eq_decide, ← not_or, hequal]
    omega
  case ovfSide =>
    rw [← Bool.decide_or, ← decide_not, ← Bool.decide_and, decide_eq_decide]
    omega
  case unfSide =>
    rw [← Bool.decide_or, ← Bool.decide_and, decide_eq_decide]
    omega

end Sys2Proof.Proofs.ProductRules

/-! PROOFS about the quotient and remainder that a host reads (43_divider R102, R105). Both readings of a result port give
back the vector that is presented; the floored remainder lies on the divisor's side, and differs from the truncated one
exactly where the signs are opposite and the division is inexact. -/

namespace Sys2Proof.Proofs.QuotientRules

open Sys2Proof Sys2Proof.Machine Sys2Proof.Claims Sys2Proof.Proofs.StateRules Sys2Proof.Proofs.SignConverterRules
  Sys2Proof.Proofs.DividerRules Sys2Proof.Proofs.ShifterRules Sys2Proof.Proofs.OperandRules

/-! ## A DIV with a divisor that is not 0 -/

theorem exec_divU {width : WidthField} {w : Nat} {s : State} (h : LegalWidth width w)
    (hb : s.inp.b.setWidth w ≠ 0) :
    exec (.divU width) s = .next { s with out :=
      { r := (s.inp.a.setWidth w / s.inp.b.setWidth w).setWidth 32
        rem := (s.inp.a.setWidth w % s.inp.b.setWidth w).setWidth 32
        ovf := false, unf := false, dbz := false, err := false } } := by
  obtain ⟨-, hexec⟩ := divUnsignedComputes width w s h
  simpa only [if_neg hb] using hexec

theorem exec_divS {width : WidthField} {w : Nat} {s : State} (h : LegalWidth width w)
    (hb : s.inp.b.setWidth w ≠ 0) :
    exec (.divS width) s = .next { s with out :=
      { r := (BitVec.ofInt w (Int.fdiv (s.inp.a.setWidth w).toInt (s.inp.b.setWidth w).toInt)).signExtend 32
        rem := ((s.inp.a.setWidth w).smod (s.inp.b.setWidth w)).signExtend 32
        ovf := decide ((s.inp.a.setWidth w).toInt = -(2 ^ (w - 1)) ∧ (s.inp.b.setWidth w).toInt = -1)
        unf := false, dbz := false, err := false } } := by
  obtain ⟨-, hexec⟩ := divSignedComputes width w s h
  simpa only [if_neg hb] using hexec

/-! ## Reading a result port (40_sign_converter R79) -/

section Reading

variable {w : Nat} (x : BitVec w) (hw : w ≤ 32)
include hw

theorem readPort_unsigned : readPort .unsigned (x.setWidth 32) = x.toNat :=
  congrArg Nat.cast (BitVec.toNat_setWidth_of_le hw)

theorem readPort_signed : readPort .signed (x.signExtend 32) = x.toInt :=
  (toSigned_port _).trans (BitVec.toInt_signExtend_of_le hw)

end Reading

/-! ## Floored division -/

/-- The floored remainder by a negative divisor lies between it and 0 (00_scope R11). -/
theorem fmod_bounds_of_neg (x : Int) {y : Int} (hy : y < 0) : y < Int.fmod x y ∧ Int.fmod x y ≤ 0 := by
  have hflip : Int.fmod x y = -Int.fmod (-x) (-y) := by rw [Int.neg_fmod_neg, neg_neg]
  have hpos : 0 < -y := by omega
  have hnonneg := Int.fmod_nonneg_of_pos (-x) hpos
  have hlt := Int.fmod_lt_of_pos (-x) hpos
  omega

theorem fdiv_mul_add_fmod (x y : Int) : x = Int.fdiv x y * y + Int.fmod x y := by
  rw [mul_comm, Int.mul_fdiv_add_fmod]

/-- The number one above the signed range wraps to its minimum. -/
theorem toInt_ofInt_two_pow {w : Nat} (hw : 0 < w) : (BitVec.ofInt w (2 ^ (w - 1))).toInt = minSigned w := by
  have hdouble : (2 : Int) ^ (w - 1) + 2 ^ (w - 1) = 2 ^ w := by rw [int_two_pow_eq hw, two_mul]
  rw [← toSigned_normTo _ hw, ← wrapIsMaskAndReread _ w hw, wrapSigned_eq_emod _ hw, hdouble, Int.emod_self, zero_sub,
    minSigned_eq]

section Vectors

variable {w : Nat} (x y : BitVec w)

theorem toNat_division_identity : (x.toNat : Int) = (x / y).toNat * y.toNat + (x % y).toNat := by
  rw [BitVec.toNat_udiv, BitVec.toNat_umod]
  exact_mod_cast (Nat.div_add_mod' x.toNat y.toNat).symm

theorem toNat_umod_lt (hy : y ≠ 0) : ((x % y).toNat : Int) < y.toNat := by
  have hpos : 0 < y.toNat := Nat.pos_of_ne_zero (mt (toNat_eq_zero_iff y).mp hy)
  rw [BitVec.toNat_umod]
  exact_mod_cast Nat.mod_lt _ hpos

/-- Without the overflow of the minimum by -1 the quotient needs no wrap (R101). -/
theorem toInt_ofInt_fdiv (hw : 0 < w) (hy : y.toInt ≠ 0) (hovf : ¬ (x.toInt = -(2 ^ (w - 1)) ∧ y.toInt = -1)) :
    (BitVec.ofInt w (Int.fdiv x.toInt y.toInt)).toInt = Int.fdiv x.toInt y.toInt := by
  obtain ⟨hmin, hmax⟩ := fdiv_range (by positivity) (BitVec.le_toInt x) BitVec.toInt_lt hy
  exact BitVec.toInt_ofInt_eq_self hw hmin (not_le.mp (mt hmax.mp hovf))

end Vectors

/-- Settles O46: the identities of floored division, on vectors that the ports give back as they are. -/
theorem divisionIdentitiesHold : Obligations.DivisionIdentitiesHold := by
  unfold Obligations.DivisionIdentitiesHold
  intro width w s h hb
  obtain ⟨hpos, hle⟩ := bounds_of_legalWidth h
  refine ⟨_, _, exec_divU h hb, exec_divS h hb, ?_⟩
  simp only [readPort_unsigned _ hle, readPort_signed _ hle, valueOperand_eq, signedOperand_eq _ _ hpos,
    BitVec.toInt_smod, decide_eq_true_eq, decide_eq_false_iff_not]
  generalize s.inp.a.setWidth w = x at *
  generalize s.inp.b.setWidth w = y at *
  have hy : y.toInt ≠ 0 := mt (toInt_eq_zero_iff y).mp hb
  refine ⟨⟨toNat_division_identity x y, by positivity, toNat_umod_lt x y hb⟩, ?inRange, ?overflow⟩
  case inRange =>
    intro hovf
    rw [toInt_ofInt_fdiv x y hpos hy hovf]
    exact ⟨fdiv_mul_add_fmod _ _, fun hdivisor => ⟨Int.fmod_nonneg_of_pos _ hdivisor, Int.fmod_lt_of_pos _ hdivisor⟩,
      fmod_bounds_of_neg _⟩
  case overflow =>
    rintro ⟨hx, hy1⟩
    have hquotient : Int.fdiv (-(2 ^ (w - 1))) (-1) = 2 ^ (w - 1) := by rw [Int.neg_fdiv_neg, Int.fdiv_one]
    rw [hx, hy1, hquotient]
    exact ⟨toInt_ofInt_two_pow hpos, Int.fmod_eq_zero_of_dvd (by simp)⟩

/-! ## Floored and truncated division (R102) -/

/-- The signs are opposite and the division is inexact: where rounding down and rounding to 0 part. -/
def RoundingMatters (x y : Int) : Prop := ¬ y ∣ x ∧ (x < 0 ↔ 0 < y)

theorem tdiv_eq_fdiv {x y : Int} (hy : y ≠ 0) (h : ¬ RoundingMatters x y) : Int.tdiv x y = Int.fdiv x y := by
  rw [Int.fdiv_eq_tdiv]
  by_cases hdvd : y ∣ x
  · simp [hdvd]
  have hsigns : ¬ (x < 0 ↔ 0 < y) := fun hopposite => h ⟨hdvd, hopposite⟩
  rcases lt_or_ge x 0 with hx | hx
  · have hy' : y < 0 := by omega
    simp [hdvd, hx.not_ge, hy'.not_ge, Int.sign_eq_neg_one_of_neg hy']
  · have hy' : 0 ≤ y := by omega
    simp [hx, hy']

theorem tmod_eq_fmod {x y : Int} (hy : y ≠ 0) (h : ¬ RoundingMatters x y) : Int.tmod x y = Int.fmod x y := by
  rw [Int.tmod_def, Int.fmod_def, tdiv_eq_fdiv hy h]

/-- Where rounding matters the floored remainder is one divisor away from the truncated one. -/
theorem fmod_eq_tmod_add {x y : Int} (hy0 : y ≠ 0) (h : RoundingMatters x y) : Int.fmod x y = Int.tmod x y + y := by
  obtain ⟨hdvd, hsigns⟩ := h
  rw [Int.fmod_eq_tmod]
  rcases lt_or_ge x 0 with hx | hx
  · have hy : 0 ≤ y := (hsigns.mp hx).le
    simp [hdvd, hx.not_ge, hy, abs_of_nonneg hy]
  · have hy : ¬ 0 ≤ y := by omega
    simp [hdvd, hx, hy]

/-- Either remainder is smaller than the divisor in magnitude. -/
theorem remainder_natAbs_lt (rounding : DivRounding) (x : Int) {y : Int} (hy : y ≠ 0) :
    (remainder rounding x y).natAbs < y.natAbs := by
  cases rounding with
  | trunc =>
    rw [remainder, Int.natAbs_tmod]
    exact Nat.mod_lt _ (Int.natAbs_pos.mpr hy)
  | floor =>
    rcases lt_or_gt_of_ne hy with hneg | hpos
    · have hbounds := fmod_bounds_of_neg x hneg
      simp only [remainder]
      omega
    · have hnonneg := Int.fmod_nonneg_of_pos x hpos
      have hlt := Int.fmod_lt_of_pos x hpos
      simp only [remainder]
      omega

/-- The result of DIV.S for two signed values, under a rounding (R101, R102). -/
def signedDivision (rounding : DivRounding) (w : Nat) (x y : Int) : Result where
  r := present (checkSigned (quotient rounding x y) w).pattern .signed w
  rem := present (toPattern (remainder rounding x y) w) .signed w
  ovf := (checkSigned (quotient rounding x y) w).ovf
  unf := (checkSigned (quotient rounding x y) w).unf
  dbz := false

theorem evalDivS_eq {cfg : Config} {width : WidthField} {a b : Word} (hlegal : widthIsLegal cfg width = true)
    (hb : signedOperand b width.toNat ≠ 0) :
    evalDivS cfg width a b =
      .ok (signedDivision cfg.divRounding width.toNat (signedOperand a width.toNat) (signedOperand b width.toNat)) :=
  (atWidth_of_legal _ _ _ hlegal).trans (if_neg hb)

/-- A value in the signed range is read back from the port of its pattern (40_sign_converter R79). -/
theorem readPort_present_toPattern {v : Int} {w : Nat} (hw : 0 < w) (hw' : w ≤ 32) (hmin : -(2 ^ (w - 1)) ≤ v)
    (hmax : v < 2 ^ (w - 1)) : readPort .signed (present (toPattern v w) .signed w) = v := by
  rw [toPattern, normTo_eq_ofInt, present_signed _ hw', readPort_signed _ hw', BitVec.toInt_ofInt_eq_self hw hmin hmax]

/-- The host reads the remainder itself from REM, under either rounding. -/
theorem readPort_signedDivision_rem (rounding : DivRounding) {w : Nat} (hw : 0 < w) (hw' : w ≤ 32) (x : Int)
    {y : BitVec w} (hy : y.toInt ≠ 0) :
    readPort .signed (signedDivision rounding w x y.toInt).rem = remainder rounding x y.toInt := by
  have hmagnitude := remainder_natAbs_lt rounding x hy
  have hymin := BitVec.le_toInt y
  have hymax := @BitVec.toInt_lt _ y
  exact readPort_present_toPattern hw hw' (by omega) (by omega)

/-- Settles O48: where rounding does not matter both results are computed from the same numbers, and where it does the
remainders on REM differ. -/
theorem roundingMattersOnOppositeSigns : Obligations.RoundingMattersOnOppositeSigns := by
  unfold Obligations.RoundingMattersOnOppositeSigns
  rintro cfg width w a b ⟨rfl, -⟩ hlegal hb
  obtain ⟨hpos, hle⟩ := width_bounds_of_legal hlegal
  have hsigned := signedOperand_eq b width.toNat hpos
  have hb0 : (b.setWidth width.toNat).toInt ≠ 0 := mt (toInt_eq_zero_iff _).mp hb
  have hb0' : signedOperand b width.toNat ≠ 0 := hsigned ▸ hb0
  rw [evalDivS_eq (cfg := { cfg with divRounding := .trunc }) hlegal hb0',
    evalDivS_eq (cfg := { cfg with divRounding := .floor }) hlegal hb0', hsigned]
  generalize signedOperand a width.toNat = x
  change _ ↔ RoundingMatters x (b.setWidth width.toNat).toInt
  refine ⟨fun hne => ?differ, fun hmatters heq => ?agree⟩
  case differ =>
    by_contra hsame
    apply hne
    simp only [signedDivision, quotient, remainder, tdiv_eq_fdiv hb0 hsame, tmod_eq_fmod hb0 hsame]
  case agree =>
    have hrem := congrArg (fun r : Result => readPort .signed r.rem) (Except.ok.inj heq)
    simp only [readPort_signedDivision_rem _ hpos hle x hb0, remainder, fmod_eq_tmod_add hb0 hmatters] at hrem
    omega

end Sys2Proof.Proofs.QuotientRules

/-! PROOFS of the identities between commands of one state (44_bitwise R114, R115; 45_shifter R127): each compares the
rows' outcomes as operations on the vectors of the masked operands. -/

namespace Sys2Proof.Proofs.IdentityRules

open Sys2Proof Sys2Proof.Machine Sys2Proof.Claims Sys2Proof.Proofs.MultiplierRules Sys2Proof.Proofs.DividerRules
  Sys2Proof.Proofs.BitwiseRules Sys2Proof.Proofs.ShifterRules Sys2Proof.Proofs.QuotientRules

/-! ## NOT twice, and the identity commands -/

/-- The masked A on the port (40_sign_converter R76). -/
theorem present_valueOperand (a : Word) (sg : Signedness) {w : Nat} (hw : w ≤ 32) :
    present (valueOperand a w) sg w = extend sg (a.setWidth w) := by
  rw [valueOperand_eq, present_eq_extend _ sg hw]

theorem exec_not {width : WidthField} {w : Nat} (sg : Signedness) (s : State) (h : LegalWidth width w) :
    exec (.not sg width) s = .next { s with out := plainTuple (extend sg (~~~(s.inp.a.setWidth w))) } :=
  (notComputes sg width w s h).2

/-- Settles O49: the port of the complement gives the complement back. -/
theorem notIsAnInvolution : Obligations.NotIsAnInvolution := by
  unfold Obligations.NotIsAnInvolution
  intro sg width w s h
  obtain ⟨-, hle⟩ := bounds_of_legalWidth h
  have htwice : ~~~((extend sg (~~~(s.inp.a.setWidth w))).setWidth w) = s.inp.a.setWidth w := by
    rw [setWidth_extend _ sg hle, BitVec.not_not]
  refine ⟨_, _, exec_not sg s h, exec_not sg _ h, ?_⟩
  simp only [driveInputs_a, plainTuple, htwice]
  exact ⟨setWidth_extend _ sg hle, (present_valueOperand _ sg hle).symm⟩

theorem setWidth_eq_allOnes {b : Word} {w : Nat} (hb : b.toNat = mask w) : b.setWidth w = BitVec.allOnes w := by
  apply BitVec.eq_of_toNat_eq
  rw [BitVec.toNat_setWidth, hb, mask, BitVec.toNat_allOnes, Nat.mod_eq_of_lt (Nat.sub_one_lt (by positivity))]

/-- Settles O50: each operand is the neutral one of its operation on vectors. -/
theorem identityCommandsPresentA : Obligations.IdentityCommandsPresentA := by
  unfold Obligations.IdentityCommandsPresentA
  intro sg width w s h
  obtain ⟨-, hle⟩ := bounds_of_legalWidth h
  rw [present_valueOperand _ sg hle]
  refine ⟨fun hb i hi => ?zero, fun hb => ?mask⟩
  case zero =>
    have hsign : s.inp.b.getLsbD 31 = false := by rw [hb]; rfl
    have hvector : s.inp.b.setWidth w = 0#w := by rw [hb]; exact BitVec.setWidth_zero w 32
    have hamount : s.inp.b.toNat = 0 := by rw [hb]; rfl
    have hor := (orComputes sg width w s h).2
    have hxor := (xorComputes sg width w s h).2
    have hshl := (shlComputes sg width w s h hsign).2
    have hshr := exec_shr sg h hsign
    have hsar := exec_sar sg h hsign
    simp only [hvector, BitVec.or_zero] at hor
    simp only [hvector, BitVec.xor_zero] at hxor
    simp only [hamount, BitVec.shiftLeft_zero] at hshl
    simp only [hamount, BitVec.ushiftRight_zero] at hshr
    simp only [hamount, BitVec.sshiftRight_zero] at hsar
    simp only [List.mem_cons, List.not_mem_nil, or_false] at hi
    rcases hi with rfl | rfl | rfl | rfl | rfl
    exacts [hor, hxor, hshl, hshr, hsar]
  case mask =>
    have hand := (andComputes sg width w s h).2
    simpa only [setWidth_eq_allOnes hb, BitVec.and_allOnes] using hand

/-! ## Shifts and powers of two (R127) -/

/-- A power of two on a port, masked (R121). -/
theorem setWidth_eq_twoPow {b : Word} {n : Nat} (hb : b.toNat = 2 ^ n) (w : Nat) :
    b.setWidth w = BitVec.twoPow w n := by
  apply BitVec.eq_of_toNat_eq
  rw [BitVec.toNat_setWidth, hb, BitVec.toNat_twoPow]

/-- A small amount has its sign bit clear. -/
theorem sign_clear_of_lt {b : Word} (hb : b.toNat < 2 ^ 31) : b.getLsbD 31 = false :=
  Nat.testBit_lt_two_pow hb

theorem twoPow_ne_zero {w n : Nat} (hn : n < w) : BitVec.twoPow w n ≠ 0 := by
  rw [ne_eq, ← toNat_eq_zero_iff, BitVec.toNat_twoPow_of_lt hn]
  positivity

/-- The floored quotient by a power of two, below the sign bit, is the arithmetic shift (R123, R127). -/
theorem ofInt_fdiv_twoPow {w n : Nat} (x : BitVec w) (hn : n + 1 < w) :
    BitVec.ofInt w (Int.fdiv x.toInt (BitVec.twoPow w n).toInt) = x.sshiftRight n := by
  have hpow : (BitVec.twoPow w n).toInt = 2 ^ n := by
    rw [BitVec.toInt_twoPow, if_neg (by omega), if_neg (by omega)]
  rw [hpow, Int.fdiv_eq_ediv_of_nonneg _ (by positivity), BitVec.sshiftRight, Int.shiftRight_eq_div_pow, pow_natCast]

/-- Settles O55: the masked `2^n` is a power of two as a vector, by which each operation is a shift. -/
theorem shiftsAgreeWithMulAndDiv : Obligations.ShiftsAgreeWithMulAndDiv := by
  unfold Obligations.ShiftsAgreeWithMulAndDiv
  rintro width w n s t h hs ha ht
  obtain ⟨hpos, hle⟩ := bounds_of_legalWidth h
  have hdivisor := setWidth_eq_twoPow ht w
  have hsign (hn : n < w) : s.inp.b.getLsbD 31 = false := sign_clear_of_lt (by omega)
  have hnonzero (hn : n < w) : t.inp.b.setWidth w ≠ 0 := hdivisor ▸ twoPow_ne_zero hn
  refine ⟨fun hn => ?mul, fun hn => ?sar, fun hn => ?shr⟩
  case mul =>
    have hmul := (mulUnsignedComputes width w t h).2
    simp only [ha, hdivisor, BitVec.mul_twoPow_eq_shiftLeft, BitVec.toNat_twoPow_of_lt hn, ← valueOperand_eq] at hmul
    refine ⟨_, _, (shlComputes .unsigned width w s h (hsign hn)).2, hmul, ?_, rfl, ?_⟩
    · rw [hs]
      rfl
    · have hmask : 2 ^ w = mask w + 1 := (Nat.sub_add_cancel Nat.one_le_two_pow).symm
      rw [decide_eq_decide, hmask, Nat.succ_le_iff]
  case sar =>
    have hw : 8 ≤ w := by obtain ⟨-, hw⟩ := h; omega
    have hlt : n < w := by omega
    have hdiv := exec_divS h (hnonzero hlt)
    simp only [ha, hdivisor, ofInt_fdiv_twoPow _ (by omega : n + 1 < w)] at hdiv
    exact ⟨_, _, exec_sar .signed h (hsign hlt), hdiv, by rw [hs]; rfl⟩
  case shr =>
    have hlt : n < w := by omega
    have hdiv := exec_divU h (hnonzero hlt)
    simp only [ha, hdivisor, BitVec.udiv_twoPow_eq_of_lt hlt] at hdiv
    exact ⟨_, _, exec_shr .unsigned h (hsign hlt), hdiv, by rw [hs]; rfl⟩

end Sys2Proof.Proofs.IdentityRules

/-! PROOFS about command sequences (20_memory R46; 30_encoding R61 to R63; 40_sign_converter R78, R80; 41_adder R91). First
what issuing one command of a sequence does; then a sequence of literals; then the two pseudo-instructions, as the rows they
stand for. -/

namespace Sys2Proof.Proofs.SequenceRules

open Sys2Proof Sys2Proof.Machine Sys2Proof.Claims Sys2Proof.Proofs.StateRules Sys2Proof.Proofs.MemoryRules
  Sys2Proof.Proofs.AdderRules Sys2Proof.Proofs.BitwiseRules Sys2Proof.Proofs.ShifterRules
  Sys2Proof.Proofs.RoundTripRules Sys2Proof.Proofs.StepRules Sys2Proof.Proofs.OperandRules
  Sys2Proof.Proofs.CarryRules Sys2Proof.Proofs.QuotientRules

/-! ## One command of a sequence -/

/-- The output tuple of a command evaluated on this hardware. -/
def outputsAt (cmd : CmdWord) (a b : Word) : Outputs := outputsOf (eval Config.t64 cmd a b)

/-- The state after a command was issued. -/
def issued (cmd : CmdWord) (a b : Word) (s : State) : State :=
  driveOutputs (outputsAt cmd a b) (s.driveInputs cmd a b)

theorem issue_eq (cmd : CmdWord) (a b : Word) (s : State) : issue cmd a b s = .next (issued cmd a b s) :=
  step_driveInputs_next_iff.mpr rfl

@[simp] theorem issued_out (cmd : CmdWord) (a b : Word) (s : State) : (issued cmd a b s).out = outputsAt cmd a b := rfl

/-- A command whose operands resolve adds its outputs to the list, and the sequence goes on (log 1). -/
theorem runSequence_cons {done : List Outputs} {c : SeqCommand} {a b : Word}
    (ha : resolveOperand done c.a = .ok a) (hb : resolveOperand done c.b = .ok b) (s : State)
    (rest : List SeqCommand) :
    runSequence s done (c :: rest) = runSequence (issued c.cmd a b s) (done ++ [outputsAt c.cmd a b]) rest := by
  simp only [runSequence, ha, hb, issue_eq, issued_out]

theorem resolveOperand_literal {v : Int} (h : FitsPort v) (done : List Outputs) :
    resolveOperand done (.literal v) = .ok (BitVec.ofInt 32 v) := by
  obtain ⟨hmin, hmax⟩ := h
  have hfits : -((2 ^ 31 : Nat) : Int) ≤ v ∧ v ≤ ((2 ^ 32 - 1 : Nat) : Int) := by omega
  rw [resolveOperand, placeLiteral, if_pos hfits, portOfInt_eq_ofInt]

/-- A result can be used if its command did not raise (30_encoding R62; log 11). -/
theorem resolveOperand_result {done : List Outputs} {k : Nat} {o : Outputs} (hk : done[k]? = some o)
    (herr : o.err = false) : resolveOperand done (.result (k + 1)) = .ok o.r := by
  simp [resolveOperand, resultOfCommand, outputsOfCommand, hk, herr, Except.map]

/-- Settles O29, by induction on the commands: each adds the evaluation of its own inputs. -/
theorem sequencesHaveNoMemory : Obligations.SequencesHaveNoMemory := by
  unfold Obligations.SequencesHaveNoMemory
  intro cs
  induction cs with
  | nil =>
    intro s done _
    simp [literalSequence, runSequence]
  | cons c rest ih =>
    intro s done hfits
    obtain ⟨ha, hb⟩ := hfits c List.mem_cons_self
    have hrest := fun c' hc' => hfits c' (List.mem_cons_of_mem c hc')
    rw [literalSequence, List.map_cons,
      runSequence_cons (resolveOperand_literal ha done) (resolveOperand_literal hb done)]
    refine (ih _ _ hrest).trans ?_
    rw [List.append_assoc]
    rfl

/-! ## The rows in a sequence -/

/-- The outputs of a row's own word are those that the row computes (30_encoding R55). -/
theorem outputsAt_encode {row : WidthField → Instr} {low : Nat} {outputs : Nat → Word → Word → Outputs}
    (hrow : ComputesAs row low outputs) {width : WidthField} {w : Nat} (h : LegalWidth width w) (a b : Word) :
    outputsAt (encode (row width)) a b = outputs w a b := by
  have hexec := (hrow width w (State.reset.driveInputs 0 a b) h).2
  rw [exec_eq_answer, answer_eq] at hexec
  rw [outputsAt, eval_of_decode (decodeOfEncodeIsTheInstruction _)]
  exact congrArg State.out (Host.Outcome.next.inj hexec)

theorem setWidth_ofInt_zero (w : Nat) : (BitVec.ofInt 32 0).setWidth w = 0#w := BitVec.setWidth_zero w 32

theorem fitsPort_zero : FitsPort 0 := by unfold FitsPort; decide

theorem fitsPort_one : FitsPort 1 := by unfold FitsPort; decide

/-- Settles O51: SCONV is OR.S with 0, the sign extension of the masked operand. -/
theorem sconvIsTheSignConverter : Obligations.SconvIsTheSignConverter := by
  unfold Obligations.SconvIsTheSignConverter
  intro width w v s h hv
  obtain ⟨hpos, hle⟩ := bounds_of_legalWidth h
  have hout : outputsAt (encode (.or .signed width)) (BitVec.ofInt 32 v) (BitVec.ofInt 32 0) =
      plainTuple (BitVec.ofInt 32 (toSigned (normTo v w) w)) := by
    rw [outputsAt_encode (orComputes .signed) h, setWidth_ofInt v hle, setWidth_ofInt_zero, BitVec.or_zero,
      toSigned_normTo v hpos]
    rfl
  rw [sconvCommand, runSequence_cons (resolveOperand_literal hv []) (resolveOperand_literal fitsPort_zero []), hout]
  rfl

/-! ## Negation (40_sign_converter R80, 41_adder R91) -/

section Negation

variable {w : Nat} (y : BitVec w)

/-- The difference from 0 leaves the range for the minimum alone, and there on the high side; the wrap gives the minimum
again. -/
theorem signedTuple_neg (hw : 0 < w) :
    signedTuple (0 - y) (0 - y.toInt) =
      { plainTuple (BitVec.ofInt 32 (if y.toInt = minSigned w then minSigned w else -y.toInt)) with
        ovf := decide (y.toInt = minSigned w) } := by
  have hmin := BitVec.le_toInt y
  have hmax := @BitVec.toInt_lt _ y
  have hpos : (0 : Int) < 2 ^ (w - 1) := by positivity
  have hread : (0 - y).toInt = if y.toInt = minSigned w then minSigned w else -y.toInt := by
    have hwrap : BitVec.ofInt w (-y.toInt) = 0 - y := by
      rw [BitVec.ofInt_neg, BitVec.ofInt_toInt, zero_sub]
    rw [← hwrap, minSigned_eq]
    split
    next h => rw [h, neg_neg, toInt_ofInt_two_pow hw, minSigned_eq]
    next h => exact BitVec.toInt_ofInt_eq_self hw (by omega) (by omega)
  have hport : (0 - y).signExtend 32 = BitVec.ofInt 32 (0 - y).toInt := rfl
  have hovf : 0 - y.toInt > 2 ^ (w - 1) - 1 ↔ y.toInt = -(2 ^ (w - 1)) := by omega
  have hunf : ¬ 0 - y.toInt < -(2 ^ (w - 1)) := by omega
  rw [signedTuple, hport, hread, decide_eq_false hunf, decide_eq_decide.mpr hovf, minSigned_eq]
  rfl

/-- The complement and then 1 more is the same difference from 0, as a vector and as a true result (R91). -/
theorem signedTuple_complement_add_one (hw : 0 < w) :
    signedTuple (~~~y + 1#w) ((~~~y).toInt + 1) = signedTuple (0 - y) (0 - y.toInt) := by
  have hvector : ~~~y + 1#w = 0 - y := by rw [← BitVec.neg_eq_not_add, zero_sub]
  have htrue : (~~~y).toInt + 1 = 0 - y.toInt := by rw [toInt_complement hw]; omega
  rw [hvector, htrue]

end Negation

section Rows

variable {width : WidthField} {w : Nat} (h : LegalWidth width w) (v : Int)
include h

/-- NEG is SUB.S from 0 (R91). -/
theorem outputsAt_neg : outputsAt (encode (.subS width)) (BitVec.ofInt 32 0) (BitVec.ofInt 32 v) =
    signedTuple (0 - BitVec.ofInt w v) (0 - (BitVec.ofInt w v).toInt) := by
  obtain ⟨-, hle⟩ := bounds_of_legalWidth h
  rw [outputsAt_encode subSignedComputes h, setWidth_ofInt v hle, setWidth_ofInt_zero, BitVec.toInt_zero]
  rfl

theorem outputsAt_not (b : Word) : outputsAt (encode (.not .signed width)) (BitVec.ofInt 32 v) b =
    plainTuple (extend .signed (~~~(BitVec.ofInt w v))) := by
  obtain ⟨-, hle⟩ := bounds_of_legalWidth h
  rw [outputsAt_encode (notComputes .signed) h, setWidth_ofInt v hle]

/-- ADD.S of 1 to a vector on a port (R91). -/
theorem outputsAt_add_one (x : BitVec w) :
    outputsAt (encode (.addS width)) (extend .signed x) (BitVec.ofInt 32 1) = signedTuple (x + 1#w) (x.toInt + 1) := by
  obtain ⟨-, hle⟩ := bounds_of_legalWidth h
  have hw : 1 < w := by obtain ⟨-, hw⟩ := h; omega
  have hone : BitVec.ofInt w 1 = 1#w := BitVec.ofInt_natCast w 1
  rw [outputsAt_encode addSignedComputes h, setWidth_extend x .signed hle, setWidth_ofInt 1 hle, hone,
    BitVec.toInt_one hw]

end Rows

/-- Settles O52: NEG is the difference from 0, and so is the sum of the complement and 1. -/
theorem negationTwoWays : Obligations.NegationTwoWays := by
  unfold Obligations.NegationTwoWays
  intro width w v s h hv
  obtain ⟨hpos, -⟩ := bounds_of_legalWidth h
  have hnot := outputsAt_not h v (BitVec.ofInt 32 0)
  refine ⟨?value, plainTuple (extend .signed (~~~(BitVec.ofInt w v))),
    signedTuple (0 - BitVec.ofInt w v) (0 - (BitVec.ofInt w v).toInt), ?twoWays⟩
  case value =>
    rw [negCommand, runSequence_cons (resolveOperand_literal fitsPort_zero []) (resolveOperand_literal hv []),
      outputsAt_neg h, signedTuple_neg _ hpos, toSigned_normTo v hpos]
    rfl
  case twoWays =>
    rw [runSequence_cons (resolveOperand_literal hv _) (resolveOperand_literal fitsPort_zero _), hnot,
      runSequence_cons (resolveOperand_result rfl rfl) (resolveOperand_literal fitsPort_one _), negCommand,
      runSequence_cons (resolveOperand_literal fitsPort_zero _) (resolveOperand_literal hv _), outputsAt_neg h]
    simp only [plainTuple]
    rw [outputsAt_add_one h, signedTuple_complement_add_one _ hpos]
    rfl

end Sys2Proof.Proofs.SequenceRules
